-- ==== Sys2Proof/Word.lean ====
section
/-! DEFINITION. The words of the servo-pulse block: the fixed-width values that spec/30_encoding.md treats as bits. -/

namespace Sys2Proof

/-- `raw_sample` and the `adc_result` port: 10-bit unsigned binary, bit 9 the most significant (R73). -/
abbrev Sample := BitVec 10

/-- `mode`: 2-bit unsigned binary; 0b11 is reserved (R71). -/
abbrev ModeBits := BitVec 2

/-- The operation selector, one per agent per cycle (R78). -/
abbrev Selector := BitVec 6

/-- The 13-bit input word of one cycle (R76). -/
abbrev InputWord := BitVec 13

/-- The 2-bit output word of one cycle (R77). -/
abbrev OutputWord := BitVec 2

end Sys2Proof
end

