-- ==== Sys2Proof/Syntax.lean ====
section
/-! DEFINITION. The syntax of the block: the nine operations of R80, the input and output of one cycle (R36), and the
statements of the trace syntax (R85, R86). -/

namespace Sys2Proof

/-- The operation map of R80, one constructor per row of spec/opcode_table.json. An operand is the value of the row's
don't-care bits (`x` in R80's pattern), kept so that no bit of a selector is dropped; no meaning reads it (log 11). -/
inductive Instr where
  /-- RESET, both agents (R200); `x` is selector bits 4..0. -/
  | reset (x : BitVec 5)
  /-- SMP_ISSUE, Sampler (R103); `d` is selector bit 2 = `adc_done`. -/
  | smpIssue (d : Bool)
  /-- SMP_WAIT, Sampler (R104). -/
  | smpWait
  /-- SMP_LATCH, Sampler (R105). -/
  | smpLatch
  /-- PG_IDLE, Pulse Generator (R137); `k` is selector bit 1 = reach. -/
  | pgIdle (k : Bool)
  /-- PG_HOLD, Pulse Generator (R140). -/
  | pgHold
  /-- PG_END, Pulse Generator (R141). -/
  | pgEnd
  /-- PG_FIRE, Pulse Generator (R138); `k` is selector bit 1 = reach. -/
  | pgFire (k : Bool)
  /-- PG_FIRE_OVR, Pulse Generator (R139); `k` is selector bit 1 = reach. -/
  | pgFireOvr (k : Bool)
deriving DecidableEq, Repr

/-- The two agents of the block (R2). -/
inductive Agent where
  | sampler
  | pulseGenerator
deriving DecidableEq, Repr

/-- The input ports of one cycle (R36); `clk` is the step itself. -/
structure Input where
  /-- synchronous reset, active high -/
  rst : Bool
  /-- logical button level, true = pressed -/
  button_in : Bool
  /-- the conversion started by the last `adc_start` is complete -/
  adc_done : Bool
  /-- result of the completed conversion, unsigned -/
  adc_result : Sample
deriving DecidableEq, Repr, Inhabited

/-- The output ports of one cycle (R36, R37). -/
structure Output where
  /-- starts one conversion -/
  adc_start : Bool
  /-- the servo control line -/
  pwm_out : Bool
deriving DecidableEq, Repr

/-- One statement of a trace: the three statements of R85 and the three pseudo-statements of R86. Its numbers are
naturals, so that the statements an assembler refuses can be written (see `Stmt.WellFormed`). -/
inductive Stmt where
  | rst
  | cyc (b : Nat)
  | done (b v : Nat)
  | rep (n : Nat) (s : Stmt)
  | press
  | release
deriving DecidableEq, Repr

end Sys2Proof
end

