-- ==== Sys2Proof/Config.lean ====
section
/-! DEFINITION. What is fixed when the block is built (R8, R9), and the free value of the model: the environment's draw
of a cycle's inputs (R13, R212). -/

namespace Sys2Proof

/-- The parameters of R8. The tick duration is no field: it is a platform obligation outside the block (R6 (g), D7). -/
structure Config where
  /-- ticks per PWM period, P; OPEN (D7) -/
  PERIOD_TICKS : Nat
  /-- pulse width in ticks at the reference position; 380 by default (D5) -/
  BASE : Nat := 380
  /-- lower clamp bound in ticks; OPEN (D6) -/
  MIN_PULSE : Nat
  /-- upper clamp bound in ticks; OPEN (D6) -/
  MAX_PULSE : Nat
deriving DecidableEq, Repr

/-- DESIGN CHOICE, unsafe (log 2): the configuration `State.reset` carries. BASE is the spec's default (D5) and the
bounds are those of vector V-C8, under which the clamp never bites in mode 0; P is OPEN in the spec and chosen here. -/
def Config.atReset : Config := { PERIOD_TICKS := 1000, MIN_PULSE := 175, MAX_PULSE := 584 }

/-- The free value (log 3): the inputs the environment draws in the `n`-th cycle of a run, for the cycles beyond those
whose inputs State lists. It has no value in the model: nothing constrains it (R212, U8 to U11). -/
opaque Config.draw : Nat → Input

/-- `SAMPLE_BITS`, a constant of the block (R7). -/
def SAMPLE_BITS : Nat := 10

/-- `MIDPOINT`, the analog midpoint (R7). -/
def MIDPOINT : Nat := 512

/-- `MODE_COUNT`, the number of modes (R7). -/
def MODE_COUNT : Nat := 3

end Sys2Proof
end

