-- ==== Sys2Proof/WellFormed.lean ====
section
/-! DEFINITION. Well-formed configurations (R8), operations (R82) and trace statements (R85, R86). -/

namespace Sys2Proof

/-- R8: "The configuration is well formed only when 2 ≤ P and 0 ≤ MIN_PULSE ≤ BASE ≤ MAX_PULSE ≤ P − 1." -/
abbrev Config.WellFormed (c : Config) : Prop :=
  2 ≤ c.PERIOD_TICKS ∧ c.MIN_PULSE ≤ c.BASE ∧ c.BASE ≤ c.MAX_PULSE ∧ c.MAX_PULSE ≤ c.PERIOD_TICKS - 1

/-- An operation is well formed unless its selector would have bit 0 set, which R82 reserves: only RESET has an operand
that covers bit 0 (log 9). -/
def Instr.wellFormed : Instr → Bool
  | .reset x => !x.getLsbD 0
  | .smpIssue _ => true
  | .smpWait => true
  | .smpLatch => true
  | .pgIdle _ => true
  | .pgHold => true
  | .pgEnd => true
  | .pgFire _ => true
  | .pgFireOvr _ => true

/-- R85: "An assembler refuses `b` ∉ {0, 1} and `v` ∉ [0, 1023]"; R86: `REP n, S` is for n ≥ 1. -/
def Stmt.wellFormed : Stmt → Bool
  | .rst => true
  | .cyc b => decide (b ≤ 1)
  | .done b v => decide (b ≤ 1) && decide (v ≤ 1023)
  | .rep n s => decide (1 ≤ n) && s.wellFormed
  | .press => true
  | .release => true

end Sys2Proof
end

