-- ==== Sys2Proof/Decode.lean ====
section
/-! DEFINITION. The decoder of operation selectors, driven by the operation map of R80, and after it the encoder; and
the encodings of the input word (R76) and the output word (R77). -/

namespace Sys2Proof

/-- Why a word is no operation selector, by name. -/
inductive Reject where
  /-- the word has more than the selector's six bits (log 10) -/
  | notSixBits
  /-- bit 0 is 1 (R82) -/
  | reservedBit0
  /-- a Sampler selector (`r` = 0, `a` = 0) whose bit 1 is 1 (R82) -/
  | reservedSamplerBit1
  /-- no row of R80 matches: no word comes here -/
  | noRow
deriving DecidableEq, Repr

/-- One row of R80: a selector `w` selects it when `w AND mask == match`. -/
structure OpRow where
  mnemonic : String
  pattern : Selector
  mask : Selector
  build : Selector → Instr

def OpRow.selects (r : OpRow) (w : Selector) : Bool := (w &&& r.mask) == r.pattern

/-- The operation map of R80, in its order. -/
def opRows : List OpRow :=
  [ ⟨"RESET", 0x20, 0x20, fun w => .reset (w.extractLsb' 0 5)⟩,
    ⟨"SMP_ISSUE", 0x00, 0x3B, fun w => .smpIssue (w.getLsbD 2)⟩,
    ⟨"SMP_WAIT", 0x08, 0x3F, fun _ => .smpWait⟩,
    ⟨"SMP_LATCH", 0x0C, 0x3F, fun _ => .smpLatch⟩,
    ⟨"PG_IDLE", 0x10, 0x3D, fun w => .pgIdle (w.getLsbD 1)⟩,
    ⟨"PG_HOLD", 0x14, 0x3F, fun _ => .pgHold⟩,
    ⟨"PG_END", 0x16, 0x3F, fun _ => .pgEnd⟩,
    ⟨"PG_FIRE", 0x18, 0x3D, fun w => .pgFire (w.getLsbD 1)⟩,
    ⟨"PG_FIRE_OVR", 0x1C, 0x3D, fun w => .pgFireOvr (w.getLsbD 1)⟩ ]

/-- The decoder of selectors (R80), the reserved values of R82 rejected first. -/
def decode (w : Selector) : Except Reject Instr :=
  if w.getLsbD 0 then .error .reservedBit0
  else if !w.getLsbD 5 && !w.getLsbD 4 && w.getLsbD 1 then .error .reservedSamplerBit1
  else
    match opRows.find? (·.selects w) with
    | some r => .ok (r.build w)
    | none => .error .noRow

/-- The decoder on any word: a selector is the low six bits, and nothing above them (log 10). -/
def decodeWord (w : Nat) : Except Reject Instr :=
  if w < 64 then decode (BitVec.ofNat 6 w) else .error .notSixBits

/-- The decoder on a word numbered as spec/opcode_table.json numbers it: a selector is one word, so `nbits` only says
how many of its low bits are given. -/
def decodeTableWord (nbits w : Nat) : Option Instr :=
  (decodeWord (w % 2 ^ nbits)).toOption

/-- The encoder: the selector of an operation, field by field from R78 and R80's patterns `r a b3 b2 b1 b0`. -/
def encode : Instr → Selector
  | .reset x => (1#1 ++ x : BitVec (1 + 5))
  | .smpIssue d => (0b000#3 ++ BitVec.ofBool d ++ 0b00#2 : BitVec (3 + 1 + 2))
  | .smpWait => 0b001000#6
  | .smpLatch => 0b001100#6
  | .pgIdle k => (0b0100#4 ++ BitVec.ofBool k ++ 0#1 : BitVec (4 + 1 + 1))
  | .pgHold => 0b010100#6
  | .pgEnd => 0b010110#6
  | .pgFire k => (0b0110#4 ++ BitVec.ofBool k ++ 0#1 : BitVec (4 + 1 + 1))
  | .pgFireOvr k => (0b0111#4 ++ BitVec.ofBool k ++ 0#1 : BitVec (4 + 1 + 1))

/-- The input word of a cycle, pattern `r b d vvvvvvvvvv` (R76). -/
def Input.toWord (i : Input) : InputWord :=
  (BitVec.ofBool i.rst ++ BitVec.ofBool i.button_in ++ BitVec.ofBool i.adc_done ++ i.adc_result :
    BitVec (1 + 1 + 1 + 10))

/-- The fields of an input word (R76). -/
def Input.ofWord (w : InputWord) : Input where
  rst := w.getLsbD 12
  button_in := w.getLsbD 11
  adc_done := w.getLsbD 10
  adc_result := w.extractLsb' 0 10

/-- The output word of a cycle: bit 1 is `adc_start`, bit 0 is `pwm_out` (R77). -/
def Output.toWord (o : Output) : OutputWord :=
  (BitVec.ofBool o.adc_start ++ BitVec.ofBool o.pwm_out : BitVec (1 + 1))

end Sys2Proof
end

