-- ==== Sys2Proof/Machine/State.lean ====
section
/-! DEFINITION. The state of the block (R20), its reset value (R39), and the ways a run can stop (R171). -/

namespace Sys2Proof.Machine

/-- The Sampler's phase (R25): ISSUE = 0, WAIT = 1. -/
inductive SmpState where
  /-- the next cycle samples the button and starts a conversion -/
  | issue
  /-- a conversion has been started and its completion not yet observed -/
  | wait
deriving DecidableEq, Repr

/-- The level of the output line (R28): LOW = 0, HIGH = 1. -/
inductive Level where
  | low
  | high
deriving DecidableEq, Repr

/-- The registers the Sampler writes (R20, column "agent"). -/
structure Sampler where
  /-- latest completed 10-bit reading (R21) -/
  raw_sample : Sample
  /-- selected scaling mode; 0b11 reserved (R22) -/
  mode : ModeBits
  /-- current button reading, true = pressed (R23) -/
  button_state : Bool
  /-- button reading of the most recent SMP_ISSUE (R24) -/
  prev_button_state : Bool
  /-- the Sampler's phase (R25) -/
  smp_state : SmpState
deriving DecidableEq, Repr

/-- The registers the Pulse Generator writes (R20). `tcnt` and `pulse_width` are unsigned numbers of N_TICK bits, a
width the configuration gives (R8, D25): that they fit is part of `State.Legal` (log 5). -/
structure PulseGen where
  /-- tick counter of the period, 0 to P − 1 (R26) -/
  tcnt : Nat
  /-- pulse duration of the current period in ticks (R27) -/
  pulse_width : Nat
  /-- level of the output line (R28) -/
  pwm_q : Level
  /-- sticky overrun flag (R29) -/
  ovr : Bool
deriving DecidableEq, Repr

/-- The state. `smp` and `pg` together are the tuple of R20. `cfg` holds the build-time parameters, which no operation
writes (R9; log 2); `inputs` the inputs of the cycles to come, first cycle first (R85, R87; log 3); `drawn` counts the
cycles whose inputs have been used, the argument of the free value `Config.draw` (log 3). -/
structure State where
  cfg : Config
  smp : Sampler
  pg : PulseGen
  inputs : List Input
  drawn : Nat
deriving DecidableEq, Repr

/-- The faults of R171: outcomes of the model, not of the hardware, which cannot reach them from reset. -/
inductive Fault where
  /-- `ReservedMode` (R83): raised by a fire, or by an SMP_ISSUE with a release edge, that reads `mode` = 3. Safe: the
  spec gives the code no meaning, and no value is computed from it. -/
  | reservedMode
  /-- `ReservedSelector` (R82): raised by a cycle whose selector the decoder rejects; R79 produces none. Safe. -/
  | reservedSelector
deriving DecidableEq, Repr

/-- The refusals. -/
inductive Refusal where
  /-- Raised by `exec` for an instruction that has no meaning yet. Safe. No arm raises it. -/
  | notModelled (mnemonic : String)
  /-- `IllFormedConfig` (R171): raised by a step whose configuration breaks R8. Safe. -/
  | illFormedConfig
  /-- `IllFormedState` (R171): raised by a step that is no RESET, from a state that breaks R38 (ii) to (iv) or does not
  fit its registers. Safe (logs 5, 6, 8). -/
  | illFormedState
deriving DecidableEq, Repr

/-- The Sampler's registers after a RESET cycle (R39). -/
def Sampler.reset : Sampler :=
  { raw_sample := 0, mode := 0, button_state := false, prev_button_state := false, smp_state := .issue }

/-- The Pulse Generator's registers after a RESET cycle (R39). -/
def PulseGen.reset : PulseGen :=
  { tcnt := 0, pulse_width := 0, pwm_q := .low, ovr := false }

/-- The block built with configuration `c`, right after reset (R39), with the trace `ins` ahead of it (R87). -/
def State.resetWith (c : Config) (ins : List Input) : State :=
  { cfg := c, smp := Sampler.reset, pg := PulseGen.reset, inputs := ins, drawn := 0 }

/-- The machine right after reset (R39). Every register has the spec's own reset value; the configuration and the empty
list of inputs are DESIGN CHOICES of the model, unsafe (logs 2, 4). -/
def State.reset : State := State.resetWith Config.atReset []

end Sys2Proof.Machine
end

