-- ==== Sys2Proof/Machine/Flags.lean ====
section
/-! DEFINITION. The block's only flag (R32) and the two conditions the selector computes from the tick registers (R79). -/

namespace Sys2Proof.Machine

/-- R139: the sticky overrun flag set. -/
def setOvr (p : PulseGen) : PulseGen := { p with ovr := true }

/-- R131: the period event, `tcnt` = P − 1. -/
def ev (s : State) : Bool := s.pg.tcnt == s.cfg.PERIOD_TICKS - 1

/-- R79: the counter's next value reaches the width, compared as unbounded naturals. -/
def reach (s : State) : Bool := decide (s.pg.pulse_width ≤ s.pg.tcnt + 1)

end Sys2Proof.Machine
end

