-- ==== Sys2Proof/Machine/Operands.lean ====
section
/-! DEFINITION. The operands of the operations and the functions that compute on them (R84): the button's release edge,
the mode advance, the pulse-width transform with its clamp, and the width of the tick registers. -/

namespace Sys2Proof.Machine

/-- R8, R74: `N_TICK`, the smallest n with 2^n ≥ P. -/
def nTick (c : Config) : Nat :=
  if c.PERIOD_TICKS ≤ 1 then 0 else Nat.log2 (c.PERIOD_TICKS - 1) + 1

/-- R101: `release_edge(prev, b)`, a pressed-then-released pair of successive samples. -/
def releaseEdge (prev b : Bool) : Bool := prev && !b

/-- R102: `next_mode(m)`, 0 → 1 → 2 → 0; none where the spec raises ReservedMode. -/
def nextMode (m : ModeBits) : Option ModeBits :=
  if m.toNat < MODE_COUNT then some (BitVec.ofNat 2 ((m.toNat + 1) % MODE_COUNT)) else none

/-- R10: integer division truncating toward zero, for b > 0. -/
def tdiv (a b : Int) : Int := if 0 ≤ a then a / b else -(-a / b)

/-- R10: `clamp(v, lo, hi)` = min(max(v, lo), hi). -/
def clamp (v lo hi : Int) : Int := min (max v lo) hi

/-- An exact positive rational in lowest terms. -/
structure Ratio where
  num : Int
  den : Int
deriving DecidableEq, Repr

/-- R133: the divisors 2.50366, 5.00733 and 15.0220 as NUM_m / DEN_m; none for the reserved mode. -/
def divisor (m : ModeBits) : Option Ratio :=
  match m.toNat with
  | 0 => some ⟨125183, 50000⟩
  | 1 => some ⟨500733, 100000⟩
  | 2 => some ⟨7511, 500⟩
  | _ => none

/-- R134: BASE + (s − 512) / d, truncated toward zero as a whole, over unbounded integers. -/
def widthOver (base : Nat) (d : Ratio) (s : Sample) : Int :=
  tdiv ((base : Int) * d.num + ((s.toNat : Int) - (MIDPOINT : Int)) * d.den) d.num

/-- R134: `WIDTH_RAW(m, s)`; none where the spec raises ReservedMode. -/
def widthRaw (c : Config) (m : ModeBits) (s : Sample) : Option Int :=
  (divisor m).map fun d => widthOver c.BASE d s

/-- R135: `WIDTH(m, s)`, the raw width clamped to [MIN_PULSE, MAX_PULSE]. -/
def width (c : Config) (m : ModeBits) (s : Sample) : Option Nat :=
  (widthRaw c m s).map fun v => (clamp v c.MIN_PULSE c.MAX_PULSE).toNat

end Sys2Proof.Machine
end

