-- ==== Sys2Proof/Machine/Ops.lean ====
section
/-! DEFINITION. The named operations over the state: reading a cycle's inputs, the selectors and outputs of a cycle, the
state check, the register writes the operations share (the entry and return of the timer interrupt among them), and the
clock edge that joins the two agents. -/

namespace Sys2Proof.Machine

/-- The inputs present `k` cycles from now: those State lists, then the environment's draws (log 3). -/
def State.inputAt (s : State) (k : Nat) : Input :=
  match s.inputs.drop k with
  | i :: _ => i
  | [] => Config.draw (s.drawn + k)

/-- The inputs present in this cycle (R11, R36). -/
def State.input (s : State) : Input := s.inputAt 0

/-- R72: the encoding of `smp_state`. -/
def SmpState.bit : SmpState → Bool
  | .issue => false
  | .wait => true

/-- R72: the encoding of `pwm_q`. -/
def Level.bit : Level → Bool
  | .low => false
  | .high => true

/-- R79: the Sampler's selector, from the pre-edge state and the current inputs. -/
def selS (s : State) : Selector :=
  (BitVec.ofBool s.input.rst ++ 0#1 ++ BitVec.ofBool s.smp.smp_state.bit ++ BitVec.ofBool s.input.adc_done ++ 0b00#2 :
    BitVec (1 + 1 + 1 + 1 + 2))

/-- R79: the Pulse Generator's selector. -/
def selP (s : State) : Selector :=
  (BitVec.ofBool s.input.rst ++ 1#1 ++ BitVec.ofBool (ev s) ++ BitVec.ofBool s.pg.pwm_q.bit ++ BitVec.ofBool (reach s) ++
    0#1 : BitVec (1 + 1 + 1 + 1 + 1 + 1))

/-- R37: the outputs during a cycle, from the current state and `rst` alone. -/
def State.output (s : State) : Output where
  adc_start := decide (s.smp.smp_state = .issue) && !s.input.rst
  pwm_out := s.pg.pwm_q.bit && !s.input.rst

/-- The start states that are not ill-formed (R83, R171): R38 (iii) and (iv), and `pulse_width` fits its N_TICK bits
(R74; log 5). R38 (ii) is the type of `raw_sample`. -/
abbrev State.Legal (s : State) : Prop :=
  s.pg.tcnt ≤ s.cfg.PERIOD_TICKS - 1 ∧
  (s.pg.pwm_q = .high → 1 ≤ s.pg.pulse_width ∧ s.pg.tcnt < s.pg.pulse_width) ∧
  s.pg.pulse_width < 2 ^ nTick s.cfg

/-- R132 with `ev` = 0: the counter moves to the next tick. -/
def tickUp (p : PulseGen) : PulseGen := { p with tcnt := p.tcnt + 1 }

/-- R138: the fire, which is the timer interrupt's entry (R174): the width of the pre-edge `mode` and `raw_sample`, the
line HIGH if it is positive, the counter at 0. Nothing else is saved or changed. `p` is the Pulse Generator with the
flag the operation writes. -/
def periodEventEntry (s : State) (p : PulseGen) : Host.Outcome State Fault Refusal :=
  match width s.cfg s.smp.mode s.smp.raw_sample with
  | none => .fault .reservedMode
  | some w =>
    .next { s with pg := { p with pulse_width := w, pwm_q := if 0 < w then .high else .low, tcnt := 0 } }

/-- R141: the line drops, which is the timer interrupt's return (R175). -/
def pulseReturn (p : PulseGen) : PulseGen := { tickUp p with pwm_q := .low }

/-- The clock edge that ends a cycle (R11): the two agents' next registers are written, and the cycle's inputs are past. -/
def State.clockEdge (s : State) (smp : Sampler) (pg : PulseGen) : State :=
  { s with smp := smp, pg := pg, inputs := s.inputs.tail, drawn := s.drawn + 1 }

/-- R13: both agents' operations happen in the cycle, each from the pre-edge state `s`; the Sampler's registers come from
its operation's outcome `a`, the Pulse Generator's from `b`. A model fault of either ends the run (log 13). -/
def joinAgents (s : State) (a b : Host.Outcome State Fault Refusal) : Host.Outcome State Fault Refusal :=
  match a, b with
  | .next sa, .next sb => .next (s.clockEdge sa.smp sb.pg)
  | .fault r, _ => .fault r
  | .refused r, _ => .refused r
  | .next _, .fault r => .fault r
  | .next _, .refused r => .refused r

/-- R171: what refuses a cycle. An ill-formed configuration refuses every cycle; an ill-formed state every cycle that is
no RESET, since RESET is defined from any state (R40, R200; log 6). -/
def refusalOf (s : State) : Option Refusal :=
  if ¬ s.cfg.WellFormed then some .illFormedConfig
  else if s.input.rst = false ∧ ¬ s.Legal then some .illFormedState
  else none

/-- The state in which R79 computes the selector `w` for the agent that `w` names (log 12): the phase and inputs for a
Sampler selector, the tick registers and line for a Pulse Generator selector, and this cycle's input word. -/
def placeSelector (s : State) (w : Selector) : State :=
  let toPG := w.getLsbD 4
  let i : Input :=
    { rst := w.getLsbD 5, button_in := false, adc_done := !toPG && w.getLsbD 2, adc_result := 0 }
  let smp := if toPG then s.smp else { s.smp with smp_state := if w.getLsbD 3 then .wait else .issue }
  let t := if w.getLsbD 3 then s.cfg.PERIOD_TICKS - 1 else 0
  let pg :=
    if toPG then
      { s.pg with
        tcnt := t
        pulse_width := if w.getLsbD 1 then t + 1 else t + 2
        pwm_q := if w.getLsbD 2 then .high else .low }
    else s.pg
  { s with smp := smp, pg := pg, inputs := i :: s.inputs.tail }

end Sys2Proof.Machine
end

