-- ==== Sys2Proof/Machine/PulseOps.lean ====
section
/-! DEFINITION. The meanings of the Pulse Generator's operations (spec/41_pulse_generator.md): PG_IDLE, PG_HOLD, PG_END,
PG_FIRE, PG_FIRE_OVR. -/

namespace Sys2Proof.Machine

/-- R137: no pulse in progress, not the last tick of the period. -/
def execPgIdle (s : State) : Host.Outcome State Fault Refusal := .next { s with pg := tickUp s.pg }

/-- R140: pulse in progress; the counter has not yet reached the width. -/
def execPgHold (s : State) : Host.Outcome State Fault Refusal := .next { s with pg := tickUp s.pg }

/-- R141: the counter reaches the width; drop the line. -/
def execPgEnd (s : State) : Host.Outcome State Fault Refusal := .next { s with pg := pulseReturn s.pg }

/-- R138: the period event; compute the width and start the pulse. -/
def execPgFire (s : State) : Host.Outcome State Fault Refusal := periodEventEntry s s.pg

/-- R139: a period event while a pulse is still HIGH: the sticky flag is set and a new pulse starts. -/
def execPgFireOvr (s : State) : Host.Outcome State Fault Refusal := periodEventEntry s (setOvr s.pg)

end Sys2Proof.Machine
end

