-- ==== Sys2Proof/Machine/Reset.lean ====
section
/-! DEFINITION. The meaning of RESET (R200). -/

namespace Sys2Proof.Machine

/-- R200: every register takes its reset value, whatever the state and the other inputs. -/
def execReset (s : State) : Host.Outcome State Fault Refusal :=
  .next { s with smp := Sampler.reset, pg := PulseGen.reset }

end Sys2Proof.Machine
end

