-- ==== Sys2Proof/Machine/SamplerOps.lean ====
section
/-! DEFINITION. The meanings of the Sampler's operations (spec/40_sampler_mode.md): SMP_ISSUE, SMP_WAIT, SMP_LATCH. -/

namespace Sys2Proof.Machine

/-- R103: sample the button, advance the mode on a release edge, start a conversion. -/
def execSmpIssue (s : State) : Host.Outcome State Fault Refusal :=
  let b := s.input.button_in
  match if releaseEdge s.smp.prev_button_state b then nextMode s.smp.mode else some s.smp.mode with
  | none => .fault .reservedMode
  | some m =>
    .next { s with smp := { s.smp with button_state := b, mode := m, prev_button_state := b, smp_state := .wait } }

/-- R104: no Sampler register changes. -/
def execSmpWait (s : State) : Host.Outcome State Fault Refusal := .next s

/-- R105: all ten bits of the result are latched at this one edge. -/
def execSmpLatch (s : State) : Host.Outcome State Fault Refusal :=
  .next { s with smp := { s.smp with raw_sample := s.input.adc_result, smp_state := .issue } }

end Sys2Proof.Machine
end

