-- ==== Sys2Proof/Machine/Dispatch.lean ====
section
/-! DEFINITION. One arm per operation of R80: the operation's effect on the registers of the agent that performs it. The
don't-care bits of a selector are read by no meaning (R80). -/

namespace Sys2Proof.Machine

def exec (i : Instr) (s : State) : Host.Outcome State Fault Refusal :=
  match i with
  | .reset _ => Sys2Proof.Machine.execReset s
  | .smpIssue _ => Sys2Proof.Machine.execSmpIssue s
  | .smpWait => Sys2Proof.Machine.execSmpWait s
  | .smpLatch => Sys2Proof.Machine.execSmpLatch s
  | .pgIdle _ => Sys2Proof.Machine.execPgIdle s
  | .pgHold => Sys2Proof.Machine.execPgHold s
  | .pgEnd => Sys2Proof.Machine.execPgEnd s
  | .pgFire _ => Sys2Proof.Machine.execPgFire s
  | .pgFireOvr _ => Sys2Proof.Machine.execPgFireOvr s

end Sys2Proof.Machine
end

