-- ==== Sys2Proof/Machine/Cycle.lean ====
section
/-! DEFINITION. One clock cycle of the block (R13): both selectors are computed from the pre-edge state and the cycle's
inputs, decoded, performed, and joined at the clock edge. -/

namespace Sys2Proof.Machine

/-- The operations of one cycle, with no check of the state: each agent's selector (R79) is decoded (R80) and performed
from the pre-edge state (R11). With `rst` = 1 both selectors are RESET's and RESET is the only operation (R81). -/
def runAgents (s : State) : Host.Outcome State Fault Refusal :=
  match decode (selS s), decode (selP s) with
  | .ok i, .ok j => joinAgents s (exec i s) (exec j s)
  | _, _ => .fault .reservedSelector

/-- One clock cycle (R13), refused where R171 refuses it. -/
def runCycle (s : State) : Host.Outcome State Fault Refusal :=
  match refusalOf s with
  | some r => .refused r
  | none => runAgents s

end Sys2Proof.Machine
end

