-- ==== Sys2Proof/Machine/Step.lean ====
section
/-! DEFINITION. The step of the block, one clock cycle (R13), and the state whose next step performs a given operation. -/

namespace Sys2Proof.Machine

/-- One step of the whole block is one clock cycle (R13). -/
def step (s : State) : Host.Outcome State Fault Refusal := runCycle s

/-- `s` set so that the very next step performs the operation of the selector `w` (log 12). -/
def State.withFetchWord (s : State) (nbits w : Nat) : State := placeSelector s (BitVec.ofNat 6 (w % 2 ^ nbits))

end Sys2Proof.Machine
end

