-- ==== Sys2Proof/Machine/Assembler.lean ====
section
/-! DEFINITION. The trace syntax, the block's "assembler" (R85, R86): statements to input words, and the text of a trace to
statements. -/

namespace Sys2Proof.Machine

/-- Why a statement or a line of a trace is refused, by name. -/
inductive AsmError where
  /-- `b` ∉ [0, 1] (R85) -/
  | badButton
  /-- `v` ∉ [0, 1023] (R85) -/
  | badSample
  /-- `n` = 0 in `REP n, S` (R86) -/
  | badRepeat
  /-- the line is no statement of R85 or R86 -/
  | badLine
  /-- a number is not decimal, 0x… or 0b… (R10) -/
  | badNumber
deriving DecidableEq, Repr

/-- R85: the inputs of a run cycle. -/
def runInput (b : Nat) (done : Bool) (v : Nat) : Input :=
  { rst := false, button_in := b == 1, adc_done := done, adc_result := BitVec.ofNat 10 v }

/-- R85, R86: the inputs of the cycles a statement stands for, in order. -/
def stmtInputs : Stmt → Except AsmError (List Input)
  | .rst => .ok [{ rst := true, button_in := false, adc_done := false, adc_result := 0 }]
  | .cyc b => if b ≤ 1 then .ok [runInput b false 0] else .error .badButton
  | .done b v =>
    if b ≤ 1 then (if v ≤ 1023 then .ok [runInput b true v] else .error .badSample) else .error .badButton
  | .rep n s =>
    match stmtInputs s with
    | .ok l => if 1 ≤ n then .ok (List.replicate n l).flatten else .error .badRepeat
    | .error e => .error e
  | .press => .ok [runInput 1 false 0]
  | .release => .ok [runInput 0 false 0]

/-- R85, R87: the encoding of a trace, its list of 13-bit input words. -/
def assemble : List Stmt → Except AsmError (List InputWord)
  | [] => .ok []
  | st :: rest =>
    match stmtInputs st, assemble rest with
    | .ok l, .ok ws => .ok (l.map Input.toWord ++ ws)
    | .error e, _ => .error e
    | .ok _, .error e => .error e

/-- A digit's value in a base up to sixteen. -/
def digitValue (base : Nat) (c : Char) : Option Nat :=
  let n := c.toNat
  let v :=
    if 48 ≤ n ∧ n ≤ 57 then n - 48
    else if 97 ≤ n ∧ n ≤ 102 then n - 87
    else if 65 ≤ n ∧ n ≤ 70 then n - 55
    else base
  if v < base then some v else none

/-- The number written by digits of a base, after `acc`. -/
def digitsValue (base : Nat) : Nat → List Char → Option Nat
  | acc, [] => some acc
  | acc, c :: cs =>
    match digitValue base c with
    | some v => digitsValue base (acc * base + v) cs
    | none => none

/-- R10: numbers are decimal unless written 0x… or 0b…. -/
def numberValue : List Char → Option Nat
  | [] => none
  | '0' :: 'x' :: d :: ds => digitsValue 16 0 (d :: ds)
  | '0' :: 'b' :: d :: ds => digitsValue 2 0 (d :: ds)
  | d :: ds => digitsValue 10 0 (d :: ds)

/-- R85: `;` starts a comment, which runs to the end of the line. -/
def stripComment (line : List Char) : List Char := line.takeWhile (· ≠ ';')

/-- The words of a line: spaces and tabs separate, a comma is a word of its own (log 17). `cur` holds the word being
read, last character first. -/
def lineWords (cur : List Char) : List Char → List (List Char)
  | [] => if cur = [] then [] else [cur.reverse]
  | c :: cs =>
    let ended := if cur = [] then [] else [cur.reverse]
    if c = ' ' ∨ c = '\t' ∨ c = '\r' then ended ++ lineWords [] cs
    else if c = ',' then ended ++ [','] :: lineWords [] cs
    else lineWords (c :: cur) cs

/-- R85, R86: one statement from its words. -/
def parseStmt : List (List Char) → Except AsmError Stmt
  | [w] =>
    if w = ['R', 'S', 'T'] then .ok .rst
    else if w = ['P', 'R', 'E', 'S', 'S'] then .ok .press
    else if w = ['R', 'E', 'L', 'E', 'A', 'S', 'E'] then .ok .release
    else .error .badLine
  | [w, b] =>
    if w = ['C', 'Y', 'C'] then
      match numberValue b with
      | some b => .ok (.cyc b)
      | none => .error .badNumber
    else .error .badLine
  | w :: n :: c :: rest =>
    if c ≠ [','] then .error .badLine
    else
      match numberValue n with
      | none => .error .badNumber
      | some n =>
        if w = ['R', 'E', 'P'] then
          match parseStmt rest with
          | .ok st => .ok (.rep n st)
          | .error e => .error e
        else if w = ['D', 'O', 'N', 'E'] then
          match rest with
          | [v] =>
            match numberValue v with
            | some v => .ok (.done n v)
            | none => .error .badNumber
          | _ => .error .badLine
        else .error .badLine
  | [] => .error .badLine

/-- One line of a trace: a statement, or nothing where the line is empty or holds a comment only. -/
def parseLine (line : List Char) : Except AsmError (Option Stmt) :=
  match lineWords [] (stripComment line) with
  | [] => .ok none
  | w :: ws =>
    match parseStmt (w :: ws) with
    | .ok st => .ok (some st)
    | .error e => .error e

/-- The lines of a text; `cur` holds the line being read, last character first. -/
def textLines (cur : List Char) : List Char → List (List Char)
  | [] => [cur.reverse]
  | c :: cs => if c = '\n' then cur.reverse :: textLines [] cs else textLines (c :: cur) cs

/-- The statements of a list of lines, one statement per line (R85). -/
def parseLines : List (List Char) → Except AsmError (List Stmt)
  | [] => .ok []
  | l :: ls =>
    match parseLine l, parseLines ls with
    | .ok (some st), .ok sts => .ok (st :: sts)
    | .ok none, .ok sts => .ok sts
    | .error e, _ => .error e
    | .ok _, .error e => .error e

/-- R85: the text of a trace to its input words. -/
def assembleText (text : List Char) : Except AsmError (List InputWord) :=
  match parseLines (textLines [] text) with
  | .ok sts => assemble sts
  | .error e => .error e

end Sys2Proof.Machine
end

