-- ==== Sys2Proof/Machine/Trace.lean ====
section
/-! DEFINITION. Runs of many cycles (R212) and the result of a trace (R87). -/

namespace Sys2Proof.Machine

/-- `n` cycles from `s`, stopping at the first fault or refusal (R171, R212). -/
def run : Nat → State → Host.Outcome State Fault Refusal
  | 0, s => .next s
  | n + 1, s =>
    match step s with
    | .next t => run n t
    | .fault r => .fault r
    | .refused r => .refused r

/-- The output words of the completed cycles among the next `n` (R77, R87; log 16). -/
def outputWords : Nat → State → List OutputWord
  | 0, _ => []
  | n + 1, s =>
    match step s with
    | .next t => s.output.toWord :: outputWords n t
    | .fault _ => []
    | .refused _ => []

/-- R87: a trace runs on a configuration from a start state; its result is the output words and the state after its last
cycle. The words are 13-bit input words (R76). -/
def runTrace (c : Config) (start : State) (trace : List InputWord) :
    List OutputWord × Host.Outcome State Fault Refusal :=
  let s := { start with cfg := c, inputs := trace.map Input.ofWord }
  (outputWords trace.length s, run trace.length s)

end Sys2Proof.Machine
end

