-- ==== Sys2Proof/Safety.lean ====
section
/-! DEFINITION. What counts as a safe run, in the terms the statements use: the invariants of R38, the environment's
premises (R204, R205, R206, R212), and the last completed update of a run (R58). -/

namespace Sys2Proof.Machine

/-- R38, with the well-formed configuration it assumes. -/
structure State.Inv (s : State) : Prop where
  config : s.cfg.WellFormed
  /-- R38 (i) -/
  mode_legal : s.smp.mode.toNat ≤ 2
  /-- R38 (ii) -/
  sample_range : s.smp.raw_sample.toNat ≤ 1023
  /-- R38 (iii) -/
  tcnt_range : s.pg.tcnt ≤ s.cfg.PERIOD_TICKS - 1
  /-- R38 (iv) -/
  pulse_in_progress : s.pg.pwm_q = .high → 1 ≤ s.pg.pulse_width ∧ s.pg.tcnt < s.pg.pulse_width
  /-- R38 (v) -/
  width_range : s.pg.pulse_width = 0 ∨ (s.cfg.MIN_PULSE ≤ s.pg.pulse_width ∧ s.pg.pulse_width ≤ s.cfg.MAX_PULSE)
  /-- R38 (vi) -/
  button_wait : s.smp.smp_state = .wait → s.smp.button_state = s.smp.prev_button_state
  /-- R38 (vii) -/
  no_overrun : s.pg.ovr = false

/-- Every finite prefix of the run from `s` ends in a state: no fault and no refusal (R171, R212). -/
def State.NeverStops (s : State) : Prop := ∀ n, ∃ t, run n s = .next t

/-- No reset in the next `n` cycles. -/
def State.NoReset (s : State) (n : Nat) : Prop := ∀ k, k < n → (s.inputAt k).rst = false

/-- The ADC reports no completion in the next `n` cycles (ERR_STALL of R170, for `n` cycles). -/
def State.AdcSilent (s : State) (n : Nat) : Prop := ∀ k, k < n → (s.inputAt k).adc_done = false

/-- The ADC handshake of R205 for the conversion started in this cycle: it completes with value `v` in the `k`-th cycle
from now, `k` ≥ 1, and no cycle between reports a completion. -/
def State.AdcAnswers (s : State) (k : Nat) (v : Sample) : Prop :=
  1 ≤ k ∧ (∀ j, 1 ≤ j → j < k → (s.inputAt j).adc_done = false) ∧
  (s.inputAt k).adc_done = true ∧ (s.inputAt k).adc_result = v

/-- ADC_LIVE of R204 for the conversion started in this cycle: `adc_done` = 1 in some later cycle, at most `n` on. -/
def State.AdcLive (s : State) (n : Nat) : Prop := ∃ k, 1 ≤ k ∧ k ≤ n ∧ (s.inputAt k).adc_done = true

/-- The Pulse Generator performs a fire in this cycle: PG_FIRE or PG_FIRE_OVR (R15). -/
def State.Fires (s : State) : Prop :=
  ∃ k, decode (selP s) = .ok (.pgFire k) ∨ decode (selP s) = .ok (.pgFireOvr k)

/-- How often the button changes level within the next `n` cycles. -/
def State.buttonChanges (s : State) : Nat → Nat
  | 0 => 0
  | n + 1 =>
    s.buttonChanges n + if (s.inputAt n).button_in = (s.inputAt (n + 1)).button_in then 0 else 1

/-- How often the button goes from pressed to released within the next `n` cycles: the physical releases. -/
def State.buttonReleases (s : State) : Nat → Nat
  | 0 => 0
  | n + 1 =>
    s.buttonReleases n + if releaseEdge (s.inputAt n).button_in (s.inputAt (n + 1)).button_in then 1 else 0

/-- The inputs of one iteration (R15, R106): its SMP_ISSUE cycle, its SMP_WAIT cycles, its SMP_LATCH cycle. -/
structure Iteration where
  first : Input
  waits : List Input
  last : Input
deriving DecidableEq, Repr

/-- The inputs make one complete iteration: no reset, no completion in the waits, a completion in the last cycle. -/
def Iteration.Complete (it : Iteration) : Prop :=
  it.first.rst = false ∧ (∀ w ∈ it.waits, w.rst = false ∧ w.adc_done = false) ∧
  it.last.rst = false ∧ it.last.adc_done = true

/-- The cycles of successive iterations. -/
def iterationInputs : List Iteration → List Input
  | [] => []
  | it :: rest => it.first :: (it.waits ++ it.last :: iterationInputs rest)

/-- How many of the button's successive samples are releases (R107), `prev` being the sample before the first. -/
def sampledReleases (prev : Bool) : List Bool → Nat
  | [] => 0
  | b :: bs => (if prev = true ∧ b = false then 1 else 0) + sampledReleases b bs

/-- The last value that `f` gives in a cycle of the run of `n` cycles from `s`. -/
def lastInRun {α : Type} (f : State → Option α) : Nat → State → Option α
  | 0, _ => none
  | n + 1, s =>
    match step s with
    | .next t =>
      match lastInRun f n t with
      | some v => some v
      | none => f s
    | .fault _ => none
    | .refused _ => none

/-- The sample a cycle completes: SMP_LATCH's result (R105), or RESET's 0 (R200). -/
def sampleWritten (s : State) : Option Sample :=
  if s.input.rst then some 0 else if decode (selS s) = .ok .smpLatch then some s.input.adc_result else none

/-- The button sample a cycle records: SMP_ISSUE's (R103), or RESET's 0 (R200). -/
def buttonWritten (s : State) : Option Bool :=
  if s.input.rst then some false
  else if decode (selS s) = .ok (.smpIssue s.input.adc_done) then some s.input.button_in else none

/-- The mode a cycle completes: what SMP_ISSUE leaves (R103), or RESET's 0 (R200). -/
def modeWritten (s : State) : Option ModeBits :=
  if s.input.rst then some 0
  else if decode (selS s) = .ok (.smpIssue s.input.adc_done) then
    (if releaseEdge s.smp.prev_button_state s.input.button_in then nextMode s.smp.mode else some s.smp.mode)
  else none

end Sys2Proof.Machine
end

