-- ==== Sys2Proof/Certificates/Slice0/Obligations.lean ====
section
/-! DEFINITION. The statements for the provers. Each docstring names the rules of spec/ it formalises. No statement rests on
a value of the free inputs (log 3), and only the statements that name `State.reset` rest on the configuration it carries
(log 2): configurations and inputs are quantified. -/

open Sys2Proof Sys2Proof.Machine

/-! ## The operations, one rule each -/

/-- R39, with R200's effect: every register after reset and after a RESET cycle. -/
def Obligations.ResetGivesTheTable : Prop :=
  State.reset.smp = ⟨0, 0, false, false, .issue⟩ ∧ State.reset.pg = ⟨0, 0, .low, false⟩ ∧
  (∀ c ins, (State.resetWith c ins).smp = ⟨0, 0, false, false, .issue⟩ ∧
    (State.resetWith c ins).pg = ⟨0, 0, .low, false⟩) ∧
  ∀ s : State, s.cfg.WellFormed → s.input.rst = true →
    ∃ t, step s = .next t ∧ t.smp = ⟨0, 0, false, false, .issue⟩ ∧ t.pg = ⟨0, 0, .low, false⟩

/-- R200: RESET, selected exactly with `rst` = 1, from any state, whatever the other inputs, with both outputs 0; several
RESET cycles in a row act as one. -/
def Obligations.ResetFollowsItsRule : Prop :=
  (∀ s : State, (s.input.rst = true ↔ ∃ x, decode (selS s) = .ok (.reset x)) ∧
    (s.input.rst = true ↔ ∃ x, decode (selP s) = .ok (.reset x))) ∧
  (∀ (x : BitVec 5) (s : State), exec (.reset x) s =
    .next { s with smp := ⟨0, 0, false, false, .issue⟩, pg := ⟨0, 0, .low, false⟩ }) ∧
  (∀ s : State, s.input.rst = true → s.output = ⟨false, false⟩) ∧
  (∀ s : State, s.cfg.WellFormed → s.input.rst = true →
    step s = .next (s.clockEdge ⟨0, 0, false, false, .issue⟩ ⟨0, 0, .low, false⟩)) ∧
  ∀ (s : State) (n : Nat), s.cfg.WellFormed → (∀ k, k < n + 1 → (s.inputAt k).rst = true) →
    ∃ t, run (n + 1) s = .next t ∧ t.smp = ⟨0, 0, false, false, .issue⟩ ∧ t.pg = ⟨0, 0, .low, false⟩

/-- R103: SMP_ISSUE. -/
def Obligations.SmpIssueFollowsItsRule : Prop :=
  (∀ w : Selector, (w &&& 0x3B) = 0x00 ↔ ∃ d, decode w = .ok (.smpIssue d)) ∧
  (∀ s : State, decode (selS s) = .ok (.smpIssue s.input.adc_done) ↔
    s.input.rst = false ∧ s.smp.smp_state = .issue) ∧
  (∀ (d : Bool) (s : State), ¬ (s.smp.prev_button_state = true ∧ s.input.button_in = false ∧ s.smp.mode = 3) →
    exec (.smpIssue d) s = .next { s with smp :=
      { raw_sample := s.smp.raw_sample
        mode := if s.smp.prev_button_state = true ∧ s.input.button_in = false then
          BitVec.ofNat 2 ((s.smp.mode.toNat + 1) % 3) else s.smp.mode
        button_state := s.input.button_in
        prev_button_state := s.input.button_in
        smp_state := .wait } }) ∧
  (∀ (d : Bool) (s : State), s.smp.prev_button_state = true → s.input.button_in = false → s.smp.mode = 3 →
    exec (.smpIssue d) s = .fault .reservedMode) ∧
  ∀ s : State, s.input.rst = false → s.smp.smp_state = .issue → s.output.adc_start = true

/-- R104: SMP_WAIT. -/
def Obligations.SmpWaitFollowsItsRule : Prop :=
  (∀ w : Selector, (w &&& 0x3F) = 0x08 ↔ decode w = .ok .smpWait) ∧
  (∀ s : State, decode (selS s) = .ok .smpWait ↔
    s.input.rst = false ∧ s.smp.smp_state = .wait ∧ s.input.adc_done = false) ∧
  (∀ s : State, exec .smpWait s = .next s) ∧
  (∀ s : State, s.smp.smp_state = .wait → s.output.adc_start = false) ∧
  ∀ s t : State, decode (selS s) = .ok .smpWait → step s = .next t → t.smp = s.smp

/-- R105: SMP_LATCH. The last clause is corner case (b): a fire in the same cycle reads the old `raw_sample`. -/
def Obligations.SmpLatchFollowsItsRule : Prop :=
  (∀ w : Selector, (w &&& 0x3F) = 0x0C ↔ decode w = .ok .smpLatch) ∧
  (∀ s : State, decode (selS s) = .ok .smpLatch ↔
    s.input.rst = false ∧ s.smp.smp_state = .wait ∧ s.input.adc_done = true) ∧
  (∀ s : State, exec .smpLatch s = .next { s with smp :=
    { raw_sample := s.input.adc_result
      mode := s.smp.mode
      button_state := s.smp.button_state
      prev_button_state := s.smp.prev_button_state
      smp_state := .issue } }) ∧
  ∀ s t : State, decode (selS s) = .ok .smpLatch → s.Fires → step s = .next t →
    t.smp.raw_sample = s.input.adc_result ∧ width s.cfg s.smp.mode s.smp.raw_sample = some t.pg.pulse_width

/-- R137: PG_IDLE. The last clause is corner case (b): with the line LOW, every cycle up to the period's last tick is
PG_IDLE. -/
def Obligations.PgIdleFollowsItsRule : Prop :=
  (∀ w : Selector, (w &&& 0x3D) = 0x10 ↔ ∃ k, decode w = .ok (.pgIdle k)) ∧
  (∀ s : State, decode (selP s) = .ok (.pgIdle (reach s)) ↔
    s.input.rst = false ∧ s.pg.tcnt ≠ s.cfg.PERIOD_TICKS - 1 ∧ s.pg.pwm_q = .low) ∧
  (∀ (k : Bool) (s : State), exec (.pgIdle k) s = .next { s with pg :=
    { tcnt := s.pg.tcnt + 1, pulse_width := s.pg.pulse_width, pwm_q := s.pg.pwm_q, ovr := s.pg.ovr } }) ∧
  (∀ (k : Bool) (s : State), decode (selP s) = .ok (.pgIdle k) → s.output.pwm_out = false) ∧
  ∀ (s : State) (n : Nat), s.Inv → s.pg.pwm_q = .low → s.NoReset n → s.pg.tcnt + n ≤ s.cfg.PERIOD_TICKS - 1 →
    ∀ j, j < n → ∃ t k, run j s = .next t ∧ decode (selP t) = .ok (.pgIdle k)

/-- R140: PG_HOLD. -/
def Obligations.PgHoldFollowsItsRule : Prop :=
  (∀ w : Selector, (w &&& 0x3F) = 0x14 ↔ decode w = .ok .pgHold) ∧
  (∀ s : State, decode (selP s) = .ok .pgHold ↔
    s.input.rst = false ∧ s.pg.tcnt ≠ s.cfg.PERIOD_TICKS - 1 ∧ s.pg.pwm_q = .high ∧
      s.pg.tcnt + 1 < s.pg.pulse_width) ∧
  (∀ s : State, exec .pgHold s = .next { s with pg :=
    { tcnt := s.pg.tcnt + 1, pulse_width := s.pg.pulse_width, pwm_q := s.pg.pwm_q, ovr := s.pg.ovr } }) ∧
  ∀ s t : State, decode (selP s) = .ok .pgHold → step s = .next t →
    s.output.pwm_out = true ∧ t.pg.pwm_q = .high ∧ t.pg.pulse_width = s.pg.pulse_width

/-- R141: PG_END. The last clause is corner case (c): from a state that is not ill-formed, PG_END is performed exactly in
the cycle whose next counter value equals the width. -/
def Obligations.PgEndFollowsItsRule : Prop :=
  (∀ w : Selector, (w &&& 0x3F) = 0x16 ↔ decode w = .ok .pgEnd) ∧
  (∀ s : State, decode (selP s) = .ok .pgEnd ↔
    s.input.rst = false ∧ s.pg.tcnt ≠ s.cfg.PERIOD_TICKS - 1 ∧ s.pg.pwm_q = .high ∧
      s.pg.pulse_width ≤ s.pg.tcnt + 1) ∧
  (∀ s : State, exec .pgEnd s = .next { s with pg :=
    { tcnt := s.pg.tcnt + 1, pulse_width := s.pg.pulse_width, pwm_q := .low, ovr := s.pg.ovr } }) ∧
  ∀ s : State, s.Legal → decode (selP s) = .ok .pgEnd → s.pg.tcnt + 1 = s.pg.pulse_width

/-- R138: PG_FIRE. -/
def Obligations.PgFireFollowsItsRule : Prop :=
  (∀ w : Selector, (w &&& 0x3D) = 0x18 ↔ ∃ k, decode w = .ok (.pgFire k)) ∧
  (∀ s : State, decode (selP s) = .ok (.pgFire (reach s)) ↔
    s.input.rst = false ∧ s.pg.tcnt = s.cfg.PERIOD_TICKS - 1 ∧ s.pg.pwm_q = .low) ∧
  (∀ (k : Bool) (s : State), s.smp.mode ≠ 3 →
    ∃ w, width s.cfg s.smp.mode s.smp.raw_sample = some w ∧
      exec (.pgFire k) s = .next { s with pg :=
        { tcnt := 0, pulse_width := w, pwm_q := if 0 < w then .high else .low, ovr := s.pg.ovr } }) ∧
  (∀ (k : Bool) (s : State), s.smp.mode = 3 → exec (.pgFire k) s = .fault .reservedMode) ∧
  ∀ (k : Bool) (s t : State), exec (.pgFire k) s = .next t → t.pg.pulse_width = 0 →
    s.cfg.MIN_PULSE ≤ s.cfg.MAX_PULSE → s.cfg.MIN_PULSE = 0

/-- R139: PG_FIRE_OVR. -/
def Obligations.PgFireOvrFollowsItsRule : Prop :=
  (∀ w : Selector, (w &&& 0x3D) = 0x1C ↔ ∃ k, decode w = .ok (.pgFireOvr k)) ∧
  (∀ s : State, decode (selP s) = .ok (.pgFireOvr (reach s)) ↔
    s.input.rst = false ∧ s.pg.tcnt = s.cfg.PERIOD_TICKS - 1 ∧ s.pg.pwm_q = .high) ∧
  (∀ (k : Bool) (s : State), s.smp.mode ≠ 3 →
    ∃ w, width s.cfg s.smp.mode s.smp.raw_sample = some w ∧
      exec (.pgFireOvr k) s = .next { s with pg :=
        { tcnt := 0, pulse_width := w, pwm_q := if 0 < w then .high else .low, ovr := true } }) ∧
  (∀ (k : Bool) (s : State), s.smp.mode = 3 → exec (.pgFireOvr k) s = .fault .reservedMode) ∧
  ∀ (k : Bool) (s : State), s.Inv → decode (selP s) ≠ .ok (.pgFireOvr k)

/-! ## Functions of the operations -/

/-- R101, R102: the release edge and the mode advance. -/
def Obligations.ReleaseEdgeAndModeAdvance : Prop :=
  (∀ prev b, releaseEdge prev b = true ↔ prev = true ∧ b = false) ∧
  nextMode 0 = some 1 ∧ nextMode 1 = some 2 ∧ nextMode 2 = some 0 ∧ nextMode 3 = none ∧
  ∀ m : ModeBits, m ≠ 3 → (nextMode m).map BitVec.toNat = some ((m.toNat + 1) % 3)

/-- R133: the divisors are the exact decimal literals, in lowest terms, and the raw width is the exact value of the source's
expression, truncated toward zero as a whole (R134); it is BASE plus a floor where that value is not negative; mode 3 has
none. -/
def Obligations.RawWidthIsTheExactExpressionTruncated : Prop :=
  (∀ (c : Config) (m : ModeBits) (s : Sample) (d : ℚ),
    (m = 0 ∧ d = 250366 / 100000) ∨ (m = 1 ∧ d = 500733 / 100000) ∨ (m = 2 ∧ d = 150220 / 10000) →
    widthRaw c m s = some
      (if 0 ≤ (c.BASE : ℚ) + ((s.toNat : ℚ) - 512) / d then ⌊(c.BASE : ℚ) + ((s.toNat : ℚ) - 512) / d⌋
        else -⌊-((c.BASE : ℚ) + ((s.toNat : ℚ) - 512) / d)⌋) ∧
    (0 ≤ (c.BASE : ℚ) + ((s.toNat : ℚ) - 512) / d →
      widthRaw c m s = some ((c.BASE : ℤ) + ⌊((s.toNat : ℚ) - 512) / d⌋)) ∧
    (205 ≤ c.BASE → 0 ≤ (c.BASE : ℚ) + ((s.toNat : ℚ) - 512) / d)) ∧
  (∀ (c : Config) (s : Sample), widthRaw c 3 s = none) ∧
  divisor 0 = some ⟨125183, 50000⟩ ∧ divisor 1 = some ⟨500733, 100000⟩ ∧ divisor 2 = some ⟨7511, 500⟩ ∧
  ∀ m d, divisor m = some d → Int.gcd d.num d.den = 1

/-- R134: "The quotient (s − 512)/d_m is an integer only at s = 512. For s ≠ 512 it lies at least 0.00056 from the nearest
integer." -/
def Obligations.QuotientKeepsAwayFromIntegers : Prop :=
  ∀ (m : ModeBits) (r : Ratio) (s : Sample) (k : ℤ), divisor m = some r → s ≠ 512 →
    (56 / 100000 : ℚ) ≤ |((s.toNat : ℚ) - 512) * (r.den : ℚ) / (r.num : ℚ) - (k : ℚ)|

/-- R135: the clamp, its bounds, and the unclamped width inside them. -/
def Obligations.WidthIsTheClampedRawWidth : Prop :=
  ∀ (c : Config) (m : ModeBits) (s : Sample), m ≠ 3 →
    ∃ (v : ℤ) (w : Nat), widthRaw c m s = some v ∧ width c m s = some w ∧
      (w : ℤ) = min (max v (c.MIN_PULSE : ℤ)) (c.MAX_PULSE : ℤ) ∧
      (c.MIN_PULSE ≤ c.MAX_PULSE → c.MIN_PULSE ≤ w ∧ w ≤ c.MAX_PULSE) ∧
      ((c.MIN_PULSE : ℤ) ≤ v → v ≤ (c.MAX_PULSE : ℤ) → (w : ℤ) = v)

/-- R136: the width values at BASE = 380, and the spans over [0, 1023]. -/
def Obligations.RawWidthTable : Prop :=
  ∀ c : Config, c.BASE = 380 →
    ([0, 511, 512, 513, 1023] : List Sample).map (widthRaw c 0) = [some 175, some 379, some 380, some 380, some 584] ∧
    ([0, 511, 512, 513, 1023] : List Sample).map (widthRaw c 1) = [some 277, some 379, some 380, some 380, some 482] ∧
    ([0, 511, 512, 513, 1023] : List Sample).map (widthRaw c 2) = [some 345, some 379, some 380, some 380, some 414] ∧
    ∀ (m : ModeBits) (a b : ℤ), widthRaw c m 0 = some a → widthRaw c m 1023 = some b →
      b - a = if m = 0 then 409 else if m = 1 then 205 else 69

/-- R143 (a), (c): for a fixed mode the width does not decrease with the sample, for every configuration; at the midpoint
it is BASE. -/
def Obligations.WidthIsMonotoneAndCentred : Prop :=
  (∀ (c : Config) (m : ModeBits) (s s' : Sample) (w w' : Nat), s.toNat ≤ s'.toNat →
    width c m s = some w → width c m s' = some w' → w ≤ w') ∧
  ∀ (c : Config) (m : ModeBits), c.WellFormed → m ≠ 3 → width c m 512 = some c.BASE ∧ widthRaw c m 512 = some (c.BASE : ℤ)

/-- R143 (b): at BASE = 380 each unit step of the sample moves the width by 0 or 1, never more in a coarser mode. -/
def Obligations.SensitivityOrdering : Prop :=
  ∀ (c : Config) (n : Nat) (a0 b0 a1 b1 a2 b2 : ℤ), c.BASE = 380 → n ≤ 1022 →
    widthRaw c 0 (BitVec.ofNat 10 n) = some a0 → widthRaw c 0 (BitVec.ofNat 10 (n + 1)) = some b0 →
    widthRaw c 1 (BitVec.ofNat 10 n) = some a1 → widthRaw c 1 (BitVec.ofNat 10 (n + 1)) = some b1 →
    widthRaw c 2 (BitVec.ofNat 10 n) = some a2 → widthRaw c 2 (BitVec.ofNat 10 (n + 1)) = some b2 →
    0 ≤ b2 - a2 ∧ b2 - a2 ≤ b1 - a1 ∧ b1 - a1 ≤ b0 - a0 ∧ b0 - a0 ≤ 1

/-- R8, R74: the well-formed configurations, which alone are run; N_TICK is the smallest n with 2^n ≥ P; in every state that
meets the invariant both tick registers fit their N_TICK bits. BASE is 380 where it is not given. -/
def Obligations.ConfigurationAndTickWidth : Prop :=
  (∀ c : Config, c.WellFormed ↔
    2 ≤ c.PERIOD_TICKS ∧ c.MIN_PULSE ≤ c.BASE ∧ c.BASE ≤ c.MAX_PULSE ∧ c.MAX_PULSE + 1 ≤ c.PERIOD_TICKS) ∧
  (∀ c : Config, c.PERIOD_TICKS ≤ 2 ^ nTick c ∧ ∀ n, c.PERIOD_TICKS ≤ 2 ^ n → nTick c ≤ n) ∧
  (∀ s : State, ¬ s.cfg.WellFormed → step s = .refused .illFormedConfig) ∧
  (∀ p lo hi, ({ PERIOD_TICKS := p, MIN_PULSE := lo, MAX_PULSE := hi } : Config).BASE = 380) ∧
  ∀ s : State, s.Inv → s.pg.tcnt < 2 ^ nTick s.cfg ∧ s.pg.pulse_width < 2 ^ nTick s.cfg

/-! ## Encodings -/

/-- R80, R81: the rows, which are disjoint; every selector R79 produces matches exactly one, and each agent performs exactly
one of its operations; with `rst` = 1 both selectors are RESET's. -/
def Obligations.SelectorPicksOneOperationPerAgent : Prop :=
  opRows.map (fun r => (r.mnemonic, r.pattern, r.mask)) =
    [("RESET", 0x20, 0x20), ("SMP_ISSUE", 0x00, 0x3B), ("SMP_WAIT", 0x08, 0x3F), ("SMP_LATCH", 0x0C, 0x3F),
      ("PG_IDLE", 0x10, 0x3D), ("PG_HOLD", 0x14, 0x3F), ("PG_END", 0x16, 0x3F), ("PG_FIRE", 0x18, 0x3D),
      ("PG_FIRE_OVR", 0x1C, 0x3D)] ∧
  (∀ w : Selector, (opRows.filter (·.selects w)).length ≤ 1) ∧
  (∀ s : State, (opRows.filter (·.selects (selS s))).length = 1 ∧ (opRows.filter (·.selects (selP s))).length = 1) ∧
  (∀ s : State, s.input.rst = true → (∃ x, decode (selS s) = .ok (.reset x)) ∧ ∃ x, decode (selP s) = .ok (.reset x)) ∧
  (∀ s : State, s.input.rst = false → decode (selS s) = .ok (.smpIssue s.input.adc_done) ∨
    decode (selS s) = .ok .smpWait ∨ decode (selS s) = .ok .smpLatch) ∧
  ∀ s : State, s.input.rst = false → decode (selP s) = .ok (.pgIdle (reach s)) ∨ decode (selP s) = .ok .pgHold ∨
    decode (selP s) = .ok .pgEnd ∨ decode (selP s) = .ok (.pgFire (reach s)) ∨
    decode (selP s) = .ok (.pgFireOvr (reach s))

/-- Decode and encode agree on every operation at every value of its operands, in both directions; an ill-formed
operation's selector is rejected (R78, R80, R82). That RESET's selectors with bit 0 set are reserved is the model's reading
(log 9). -/
def Obligations.DecodeEncodeAgree : Prop :=
  (∀ i : Instr, i.wellFormed = true → decode (encode i) = .ok i ∧ decodeTableWord 6 (encode i).toNat = some i) ∧
  (∀ (w : Selector) (i : Instr), decode w = .ok i → encode i = w ∧ i.wellFormed = true) ∧
  ∀ i : Instr, i.wellFormed = false → decode (encode i) = .error .reservedBit0

/-- R82: the reserved selectors are rejected, no others are, and no cycle of any state meets one. -/
def Obligations.ReservedSelectorsAreRejected : Prop :=
  (∀ w : Selector, (∃ r, decode w = .error r) ↔
    w.getLsbD 0 = true ∨ (w.getLsbD 5 = false ∧ w.getLsbD 4 = false ∧ w.getLsbD 1 = true)) ∧
  (∀ s : State, (∃ i, decode (selS s) = .ok i) ∧ ∃ i, decode (selP s) = .ok i) ∧
  ∀ (s : State), step s ≠ .fault .reservedSelector

/-- A few selectors written out from R80's patterns decode to the operations they stand for. -/
def Obligations.DecodedSelectorsSanity : Prop :=
  decode 0b100000#6 = .ok (.reset 0) ∧ decode 0b000100#6 = .ok (.smpIssue true) ∧ decode 0b001000#6 = .ok .smpWait ∧
  decode 0b001100#6 = .ok .smpLatch ∧ decode 0b010010#6 = .ok (.pgIdle true) ∧ decode 0b010100#6 = .ok .pgHold ∧
  decode 0b010110#6 = .ok .pgEnd ∧ decode 0b011010#6 = .ok (.pgFire true) ∧ decode 0b011100#6 = .ok (.pgFireOvr false)

/-- R76, R77: the places of the fields in the input word and the output word; and the fields a cycle ignores: all but `r`
where `r` = 1, `d` and `v` where the Sampler is in ISSUE, `b` where it is in WAIT, and `v` unless `d` = 1. -/
def Obligations.InputAndOutputWords : Prop :=
  (∀ i : Input, i.toWord.toNat = (if i.rst then 4096 else 0) + (if i.button_in then 2048 else 0) +
    (if i.adc_done then 1024 else 0) + i.adc_result.toNat) ∧
  (∀ i : Input, Input.ofWord i.toWord = i) ∧ (∀ w : InputWord, (Input.ofWord w).toWord = w) ∧
  (∀ o : Output, o.toWord.toNat = (if o.adc_start then 2 else 0) + (if o.pwm_out then 1 else 0)) ∧
  ∀ (s : State) (i j : Input) (rest : List Input), i.rst = j.rst →
    (i.rst = true ∨ (s.smp.smp_state = .issue ∧ i.button_in = j.button_in) ∨
      (s.smp.smp_state = .wait ∧ i.adc_done = j.adc_done ∧ (i.adc_done = true → i.adc_result = j.adc_result))) →
    step { s with inputs := i :: rest } = step { s with inputs := j :: rest }

/-- R85: the three statements of a trace and their words, what the assembler refuses, one statement per line, comments. -/
def Obligations.TraceStatementsAndWords : Prop :=
  assemble [.rst] = .ok [0x1000] ∧
  (∀ b, b ≤ 1 → assemble [.cyc b] = .ok [BitVec.ofNat 13 (b * 2 ^ 11)]) ∧
  (∀ b v, b ≤ 1 → v ≤ 1023 → assemble [.done b v] = .ok [BitVec.ofNat 13 (b * 2 ^ 11 + 0x400 + v)]) ∧
  (∀ b, 1 < b → assemble [.cyc b] = .error .badButton) ∧
  (∀ b v, 1 < b → assemble [.done b v] = .error .badButton) ∧
  (∀ b v, b ≤ 1 → 1023 < v → assemble [.done b v] = .error .badSample) ∧
  (∀ (l c : List Char), parseLine (l ++ ';' :: c) = parseLine l) ∧
  (∀ (l text : List Char), '\n' ∉ l → textLines [] (l ++ '\n' :: text) = l :: textLines [] text) ∧
  parseLine "RST".toList = .ok (some .rst) ∧ parseLine "CYC 1".toList = .ok (some (.cyc 1)) ∧
  parseLine "DONE 0, 0x3FF".toList = .ok (some (.done 0 1023))

/-- R86: the pseudo-statements expand as they say; a completion reported in ISSUE is ignored. -/
def Obligations.PseudoStatementsExpand : Prop :=
  (∀ (n : Nat) (st : Stmt), 1 ≤ n → st.wellFormed = true → assemble [.rep n st] = assemble (List.replicate n st)) ∧
  assemble [.press] = assemble [.cyc 1] ∧ assemble [.release] = assemble [.cyc 0] ∧
  parseLine "PRESS".toList = .ok (some .press) ∧ parseLine "RELEASE".toList = .ok (some .release) ∧
  parseLine "REP 3, DONE 1, 5".toList = .ok (some (.rep 3 (.done 1 5))) ∧
  ∀ (s : State) (b v : Nat) (rest : List Input), s.smp.smp_state = .issue →
    step { s with inputs := runInput b true v :: rest } = step { s with inputs := runInput b false 0 :: rest }

/-- An assembler accepts exactly the lists of well-formed statements (R85, R86), and assembles them piece by piece. -/
def Obligations.AssemblerAcceptsWellFormed : Prop :=
  (∀ sts : List Stmt, (∃ ws, assemble sts = .ok ws) ↔ ∀ st ∈ sts, st.wellFormed = true) ∧
  ∀ (a b : List Stmt) (x y : List InputWord), assemble a = .ok x → assemble b = .ok y → assemble (a ++ b) = .ok (x ++ y)

/-- R87: a trace's result is the sequence of its cycles' output words, and the state after its last cycle. -/
def Obligations.TraceResult : Prop :=
  ∀ (c : Config) (start : State) (ws : List InputWord) (t : State),
    (runTrace c start ws).2 = .next t →
    run ws.length { start with cfg := c, inputs := ws.map Input.ofWord } = .next t ∧
    (runTrace c start ws).1.length = ws.length ∧
    ∀ (k : Nat) (w : InputWord), ws[k]? = some w →
      ∃ u, run k { start with cfg := c, inputs := ws.map Input.ofWord } = .next u ∧
        u.input = Input.ofWord w ∧ (runTrace c start ws).1[k]? = some u.output.toWord

/-! ## One cycle -/

/-- R13: in a cycle that nothing refuses, the step performs the two decoded operations from the pre-edge state: the
Sampler's registers come from one, the Pulse Generator's from the other. Around `exec` the step only moves past the
cycle's inputs (`inputs`, `drawn`: the model's own fields). A fault of either operation is the step's. -/
def Obligations.StepRunsTheDecodedOperations : Prop :=
  ∀ (s : State) (i j : Instr), s.cfg.WellFormed → (s.input.rst = true ∨ s.Legal) →
    decode (selS s) = .ok i → decode (selP s) = .ok j →
    (∀ a b : State, exec i s = .next a → exec j s = .next b →
      step s = .next { cfg := s.cfg, smp := a.smp, pg := b.pg, inputs := s.inputs.tail, drawn := s.drawn + 1 }) ∧
    (∀ r, exec i s = .fault r → step s = .fault r) ∧
    ∀ (r : Fault) (a : State), exec i s = .next a → exec j s = .fault r → step s = .fault r

/-- R13, R11: the two operations, each evaluated in the pre-edge state, give results that join to one state whichever is
taken first, and the step is that state past the cycle's inputs. The Sampler's operation reads nothing the Pulse Generator
writes: on the Pulse Generator's result it gives the same registers. (The converse holds of pre-edge results only: run on
the Sampler's result, a fire would read the new `raw_sample`, which R57 forbids.) -/
def Obligations.AgentsAreOrderIndependent : Prop :=
  ∀ (s a b : State) (i j : Instr), s.input.rst = false → decode (selS s) = .ok i → decode (selP s) = .ok j →
    exec i s = .next a → exec j s = .next b →
    { a with pg := b.pg } = { b with smp := a.smp } ∧
    exec i b = .next { b with smp := a.smp } ∧
    (s.cfg.WellFormed → s.Legal →
      step s = .next { a with pg := b.pg, inputs := s.inputs.tail, drawn := s.drawn + 1 } ∧
      step s = .next { b with smp := a.smp, inputs := s.inputs.tail, drawn := s.drawn + 1 })

/-- R37: the outputs. -/
def Obligations.OutputsFollowStateAndReset : Prop :=
  (∀ s : State, s.output.pwm_out = true ↔ s.pg.pwm_q = .high ∧ s.input.rst = false) ∧
  (∀ s : State, s.output.adc_start = true ↔ s.smp.smp_state = .issue ∧ s.input.rst = false) ∧
  (∀ s s' : State, s.smp = s'.smp → s.pg = s'.pg → s.input.rst = s'.input.rst → s.output = s'.output) ∧
  ∀ s t : State, s.output.adc_start = true → step s = .next t → t.output.adc_start = false

/-- R132: the tick counter, whatever operation the Pulse Generator performs. -/
def Obligations.TickCounterRule : Prop :=
  ∀ s t : State, s.input.rst = false → step s = .next t →
    t.pg.tcnt = (if s.pg.tcnt = s.cfg.PERIOD_TICKS - 1 then 0 else s.pg.tcnt + 1) ∧
    t.pg.tcnt ≤ s.cfg.PERIOD_TICKS - 1

/-- R21: `raw_sample` changes only at an SMP_LATCH (and RESET), and takes the whole result at once. -/
def Obligations.RawSampleRule : Prop :=
  ∀ s t : State, step s = .next t →
    t.smp.raw_sample = (if s.input.rst then 0
      else if s.smp.smp_state = .wait ∧ s.input.adc_done = true then s.input.adc_result else s.smp.raw_sample)

/-- R22: `mode` changes only on a release edge of the sampled button (and RESET), by one step; 0b11 is never written. -/
def Obligations.ModeRule : Prop :=
  (∀ s t : State, step s = .next t → s.input.rst = false → t.smp.mode ≠ s.smp.mode →
    s.smp.smp_state = .issue ∧ s.smp.prev_button_state = true ∧ s.input.button_in = false ∧
      t.smp.mode.toNat = (s.smp.mode.toNat + 1) % 3) ∧
  ∀ s t : State, step s = .next t → s.smp.mode ≠ 3 → t.smp.mode ≠ 3

/-- R23, R24, R25: the button registers, which hold the sample of the last SMP_ISSUE, or 0 where none has run since reset;
and the phase. -/
def Obligations.ButtonRegistersAndPhaseRule : Prop :=
  (∀ (n : Nat) (s t : State), run n s = .next t →
    t.smp.prev_button_state = (lastInRun buttonWritten n s).getD s.smp.prev_button_state ∧
    t.smp.button_state = (lastInRun buttonWritten n s).getD s.smp.button_state) ∧
  (∀ (c : Config) (ins : List Input) (n : Nat) (t : State), run n (State.resetWith c ins) = .next t →
    t.smp.prev_button_state = (lastInRun buttonWritten n (State.resetWith c ins)).getD false) ∧
  ∀ s t : State, step s = .next t → s.input.rst = false →
    (s.smp.smp_state = .issue → t.smp.button_state = s.input.button_in ∧
      t.smp.prev_button_state = s.input.button_in ∧ t.smp.smp_state = .wait) ∧
    (s.smp.smp_state = .wait → t.smp.button_state = s.smp.button_state ∧
      t.smp.prev_button_state = s.smp.prev_button_state ∧
      t.smp.smp_state = (if s.input.adc_done then .issue else .wait))

/-- R27, R28: `pulse_width` is written by the fire and held until the next one; the line follows it. -/
def Obligations.PulseRegistersRule : Prop :=
  ∀ s t : State, step s = .next t → s.input.rst = false →
    (s.pg.tcnt = s.cfg.PERIOD_TICKS - 1 → width s.cfg s.smp.mode s.smp.raw_sample = some t.pg.pulse_width ∧
      (t.pg.pwm_q = .high ↔ 0 < t.pg.pulse_width)) ∧
    (s.pg.tcnt ≠ s.cfg.PERIOD_TICKS - 1 → t.pg.pulse_width = s.pg.pulse_width ∧
      (t.pg.pwm_q = .high ↔ s.pg.pwm_q = .high ∧ s.pg.tcnt + 1 < s.pg.pulse_width))

/-- R29: the overrun flag is set by an overrun, cleared by RESET alone, and never set from the invariant's states. -/
def Obligations.OverrunFlagRule : Prop :=
  (∀ s t : State, step s = .next t → s.input.rst = false →
    t.pg.ovr = (s.pg.ovr || decide (s.pg.tcnt = s.cfg.PERIOD_TICKS - 1 ∧ s.pg.pwm_q = .high))) ∧
  (∀ s t : State, step s = .next t → s.input.rst = true → t.pg.ovr = false) ∧
  ∀ s : State, s.Inv → ∀ n t, run n s = .next t → t.pg.ovr = false

/-- R9: nothing changes the parameters while the block runs. -/
def Obligations.ParametersNeverChange : Prop :=
  ∀ (n : Nat) (s t : State), run n s = .next t → t.cfg = s.cfg

/-- The frame of the Sampler's operations (R103, R104, R105, R178): each writes its own registers and nothing else. -/
def Obligations.SamplerOperationsFrame : Prop :=
  (∀ (d : Bool) (s t : State), exec (.smpIssue d) s = .next t →
    t.cfg = s.cfg ∧ t.pg = s.pg ∧ t.inputs = s.inputs ∧ t.drawn = s.drawn ∧ t.smp.raw_sample = s.smp.raw_sample) ∧
  (∀ s t : State, exec .smpWait s = .next t → t = s) ∧
  (∀ s t : State, exec .smpLatch s = .next t →
    t.cfg = s.cfg ∧ t.pg = s.pg ∧ t.inputs = s.inputs ∧ t.drawn = s.drawn ∧ t.smp.mode = s.smp.mode ∧
      t.smp.button_state = s.smp.button_state ∧ t.smp.prev_button_state = s.smp.prev_button_state) ∧
  ∀ (x : BitVec 5) (s t : State), exec (.reset x) s = .next t →
    t.cfg = s.cfg ∧ t.inputs = s.inputs ∧ t.drawn = s.drawn

/-- The frame of the Pulse Generator's operations (R137 to R141): the counting ones keep the width and the flag; the fires,
which are the interrupt's entry, change `pulse_width`, `pwm_q` and `tcnt` only (R174), and PG_FIRE_OVR the flag. -/
def Obligations.PulseGeneratorOperationsFrame : Prop :=
  (∀ (i : Instr) (s t : State), (∃ k, i = .pgIdle k) ∨ i = .pgHold → exec i s = .next t →
    t.cfg = s.cfg ∧ t.smp = s.smp ∧ t.inputs = s.inputs ∧ t.drawn = s.drawn ∧
      t.pg.pulse_width = s.pg.pulse_width ∧ t.pg.pwm_q = s.pg.pwm_q ∧ t.pg.ovr = s.pg.ovr) ∧
  (∀ s t : State, exec .pgEnd s = .next t →
    t.cfg = s.cfg ∧ t.smp = s.smp ∧ t.inputs = s.inputs ∧ t.drawn = s.drawn ∧
      t.pg.pulse_width = s.pg.pulse_width ∧ t.pg.ovr = s.pg.ovr) ∧
  (∀ (k : Bool) (s t : State), exec (.pgFire k) s = .next t →
    t.cfg = s.cfg ∧ t.smp = s.smp ∧ t.inputs = s.inputs ∧ t.drawn = s.drawn ∧ t.pg.ovr = s.pg.ovr) ∧
  ∀ (k : Bool) (s t : State), exec (.pgFireOvr k) s = .next t →
    t.cfg = s.cfg ∧ t.smp = s.smp ∧ t.inputs = s.inputs ∧ t.drawn = s.drawn

/-- R57, R173: simultaneous events. RESET overrides; a fire uses the pre-edge `mode` and `raw_sample` whatever the Sampler
does in the same cycle; PG_END and a period event never meet. -/
def Obligations.SimultaneousEvents : Prop :=
  (∀ s t : State, s.input.rst = true → step s = .next t →
    t.smp = ⟨0, 0, false, false, .issue⟩ ∧ t.pg = ⟨0, 0, .low, false⟩) ∧
  (∀ s t : State, s.Fires → step s = .next t → s.smp.smp_state = .wait → s.input.adc_done = true →
    t.smp.raw_sample = s.input.adc_result ∧ width s.cfg s.smp.mode s.smp.raw_sample = some t.pg.pulse_width) ∧
  (∀ s t : State, s.Fires → step s = .next t → s.smp.smp_state = .issue → s.smp.prev_button_state = true →
    s.input.button_in = false →
    t.smp.mode.toNat = (s.smp.mode.toNat + 1) % 3 ∧
      width s.cfg s.smp.mode s.smp.raw_sample = some t.pg.pulse_width) ∧
  ∀ s : State, ¬ (decode (selP s) = .ok .pgEnd ∧ s.Fires)

/-! ## Stops -/

/-- R83: what a state with `mode` = 3 does, and what refuses an ill-formed start state. -/
def Obligations.ReservedModeFaults : Prop :=
  (∀ s : State, s.cfg.WellFormed → s.Legal → s.input.rst = false → s.smp.mode = 3 →
    (s.pg.tcnt = s.cfg.PERIOD_TICKS - 1 ∨
      (s.smp.smp_state = .issue ∧ s.smp.prev_button_state = true ∧ s.input.button_in = false) →
      step s = .fault .reservedMode) ∧
    (¬ (s.pg.tcnt = s.cfg.PERIOD_TICKS - 1 ∨
      (s.smp.smp_state = .issue ∧ s.smp.prev_button_state = true ∧ s.input.button_in = false)) →
      ∃ t, step s = .next t ∧ t.smp.mode = 3)) ∧
  ∀ s : State, s.cfg.WellFormed → s.input.rst = false →
    (s.cfg.PERIOD_TICKS - 1 < s.pg.tcnt ∨ (s.pg.pwm_q = .high ∧ s.pg.pulse_width = 0)) →
    step s = .refused .illFormedState

/-- R171: the closed list of stops, each with its condition; a check that has passed once never stops a later cycle; a stop
is final. That RESET runs from an ill-formed state, and that a register value too wide for its bits is ill-formed, is the
model's reading (logs 5, 6), as is that an ill-formed configuration refuses a reset cycle too (log 7). -/
def Obligations.StopsAreTheClosedList : Prop :=
  (∀ s : State, step s = .refused .illFormedConfig ↔ ¬ s.cfg.WellFormed) ∧
  (∀ s : State, step s = .refused .illFormedState ↔ s.cfg.WellFormed ∧ s.input.rst = false ∧ ¬ s.Legal) ∧
  (∀ (s : State) (m : String), step s ≠ .refused (.notModelled m)) ∧
  (∀ (s : State) (r : Fault), step s = .fault r → r = .reservedMode ∧ s.smp.mode = 3) ∧
  (∀ s t : State, step s = .next t → t.cfg.WellFormed ∧ t.Legal) ∧
  (∀ (n m : Nat) (s : State) (r : Fault), run n s = .fault r → run (n + m) s = .fault r) ∧
  ∀ (n m : Nat) (s : State) (r : Refusal), run n s = .refused r → run (n + m) s = .refused r

/-! ## Invariants and whole-machine rules -/

/-- R38, R39: the invariant holds right after reset, for every well-formed configuration and every inputs to come; of
`State.reset`, whose configuration is the model's choice (log 2), in the first clause. -/
def Obligations.InvariantHoldsAfterReset : Prop :=
  State.reset.Inv ∧ (∀ c ins, c.WellFormed → (State.resetWith c ins).Inv) ∧
  ∀ s t : State, s.input.rst = true → step s = .next t → t.Inv

/-- R38: every step keeps the invariant, from every state that meets it; so it holds after any number of cycles from a
reset state, under a well-formed configuration. -/
def Obligations.EveryStepKeepsTheInvariant : Prop :=
  (∀ s t : State, s.Inv → step s = .next t → t.Inv) ∧
  ∀ (c : Config) (ins : List Input) (n : Nat) (t : State), c.WellFormed → run n (State.resetWith c ins) = .next t → t.Inv

/-- R171, R212: from a state that meets the invariant, whatever the inputs, the block never stops, and the invariant holds
after any number of cycles. -/
def Obligations.InvariantStatesNeverStop : Prop :=
  ∀ s : State, s.Inv → s.NeverStops ∧ ∀ n t, run n s = .next t → t.Inv

/-- R207: under a well-formed configuration a pulse has ended before the next period event, so there is never an overrun. -/
def Obligations.OverrunNeverHappens : Prop :=
  ∀ s : State, s.Inv → s.cfg.MAX_PULSE ≤ s.cfg.PERIOD_TICKS - 1 ∧
    ∀ n t, run n s = .next t → t.pg.ovr = false ∧ (∀ k, decode (selP t) ≠ .ok (.pgFireOvr k)) ∧
      (t.pg.tcnt = s.cfg.PERIOD_TICKS - 1 → t.pg.pwm_q = .low)

/-- R131: a fire in every cycle with `rst` = 0 and `tcnt` = P − 1 and in no other; exactly one in P non-reset cycles; the
first after reset in the P-th. -/
def Obligations.OneFirePerPeriod : Prop :=
  (∀ s : State, s.Fires ↔ s.input.rst = false ∧ s.pg.tcnt = s.cfg.PERIOD_TICKS - 1) ∧
  (∀ s : State, s.Inv → s.NoReset s.cfg.PERIOD_TICKS →
    ∃ k, k < s.cfg.PERIOD_TICKS ∧ (∃ t, run k s = .next t ∧ t.Fires) ∧
      ∀ j t, j < s.cfg.PERIOD_TICKS → run j s = .next t → t.Fires → j = k) ∧
  ∀ c ins, c.WellFormed → (State.resetWith c ins).NoReset c.PERIOD_TICKS →
    ∀ j, j < c.PERIOD_TICKS → ∃ t, run j (State.resetWith c ins) = .next t ∧ (t.Fires ↔ j = c.PERIOD_TICKS - 1)

/-- R201: the first cycles after reset. -/
def Obligations.FirstCyclesAfterReset : Prop :=
  ∀ (c : Config) (ins : List Input), c.WellFormed → (State.resetWith c ins).NoReset c.PERIOD_TICKS →
    decode (selS (State.resetWith c ins)) = .ok (.smpIssue (State.resetWith c ins).input.adc_done) ∧
    (State.resetWith c ins).output.adc_start = true ∧
    (∃ t, run 1 (State.resetWith c ins) = .next t ∧ t.pg.tcnt = 1 ∧ t.smp.smp_state = .wait ∧
      (decode (selS t) = .ok .smpLatch ↔ ((State.resetWith c ins).inputAt 1).adc_done = true)) ∧
    ∀ j, j ≤ c.PERIOD_TICKS - 2 → ∃ t k, run j (State.resetWith c ins) = .next t ∧ decode (selP t) = .ok (.pgIdle k)

/-- R202: the first fire is in cycle P − 1, and the line is high in exactly the cycles P to P + W − 1 among the first P + W. -/
def Obligations.FirstPulseAfterReset : Prop :=
  ∀ (c : Config) (ins : List Input), c.WellFormed → (State.resetWith c ins).NoReset c.PERIOD_TICKS →
    ∃ t w, run (c.PERIOD_TICKS - 1) (State.resetWith c ins) = .next t ∧ t.Fires ∧
      width c t.smp.mode t.smp.raw_sample = some w ∧
      (∀ j, j < c.PERIOD_TICKS → ∃ u, run j (State.resetWith c ins) = .next u ∧ u.output.pwm_out = false) ∧
      ((State.resetWith c ins).NoReset (c.PERIOD_TICKS + w) →
        ∀ j, c.PERIOD_TICKS ≤ j → j < c.PERIOD_TICKS + w →
          ∃ u, run j (State.resetWith c ins) = .next u ∧ u.output.pwm_out = true)

/-- R142: the pulse shape. After a fire in cycle c that computes W, the line is high in exactly the cycles c + 1 to c + W
of the P cycles that follow, the last of which holds the next fire. -/
def Obligations.PulseShape : Prop :=
  ∀ (s : State) (w : Nat), s.Inv → s.NoReset (s.cfg.PERIOD_TICKS + 1) → s.Fires →
    width s.cfg s.smp.mode s.smp.raw_sample = some w →
    ∀ k, 1 ≤ k → k ≤ s.cfg.PERIOD_TICKS →
      ∃ t, run k s = .next t ∧ t.pg.tcnt = k - 1 ∧ (t.output.pwm_out = true ↔ k ≤ w) ∧
        (t.Fires ↔ k = s.cfg.PERIOD_TICKS)

/-- R58: a fire uses the sample of the last SMP_LATCH and the mode of the last SMP_ISSUE in a cycle before it, or 0 where
none has run since reset. -/
def Obligations.FireSeesTheLastCompletedUpdates : Prop :=
  (∀ (n : Nat) (s t : State), run n s = .next t →
    t.smp.raw_sample = (lastInRun sampleWritten n s).getD s.smp.raw_sample ∧
    t.smp.mode = (lastInRun modeWritten n s).getD s.smp.mode) ∧
  ∀ (c : Config) (ins : List Input) (n : Nat) (t u : State), run n (State.resetWith c ins) = .next t → t.Fires →
    step t = .next u →
    width c ((lastInRun modeWritten n (State.resetWith c ins)).getD 0)
      ((lastInRun sampleWritten n (State.resetWith c ins)).getD 0) = some u.pg.pulse_width

/-- R106: one iteration whose conversion completes k cycles after its start (the ADC handshake of R205): SMP_ISSUE, then
k − 1 SMP_WAIT cycles, then SMP_LATCH, and the sample is visible in the cycle after. -/
def Obligations.IterationTiming : Prop :=
  ∀ (s : State) (k : Nat) (v : Sample), s.Inv → s.smp.smp_state = .issue → s.NoReset (k + 1) → s.AdcAnswers k v →
    decode (selS s) = .ok (.smpIssue s.input.adc_done) ∧
    (∀ j, 1 ≤ j → j < k → ∃ t, run j s = .next t ∧ decode (selS t) = .ok .smpWait) ∧
    (∃ t, run k s = .next t ∧ decode (selS t) = .ok .smpLatch ∧ t.smp.raw_sample = s.smp.raw_sample) ∧
    (∃ t, run (k + 1) s = .next t ∧ t.smp.smp_state = .issue ∧ t.smp.raw_sample = v ∧
      t.smp.button_state = s.input.button_in) ∧
    ∃ t, run 1 s = .next t ∧ ∀ j u, 1 ≤ j → j ≤ k + 1 → run j s = .next u → u.smp.mode = t.smp.mode

/-- R109: a stalled conversion freezes the Sampler, with no timeout, while the period goes on. -/
def Obligations.StallFreezesTheSampler : Prop :=
  ∀ (s : State) (n : Nat), s.Inv → s.smp.smp_state = .wait → s.NoReset n → s.AdcSilent n →
    ∃ t, run n s = .next t ∧ t.smp = s.smp ∧ t.pg.tcnt = (s.pg.tcnt + n) % s.cfg.PERIOD_TICKS

/-- R107: over any number of complete iterations, each of any length, every sampled release advances the mode by exactly one
step; the source's four examples. -/
def Obligations.EachSampledReleaseAdvancesTheMode : Prop :=
  (∀ (s : State) (l : List Iteration) (rest : List Input), s.Inv → s.smp.smp_state = .issue →
    (∀ it ∈ l, it.Complete) → s.inputs = iterationInputs l ++ rest →
    ∃ t, run (iterationInputs l).length s = .next t ∧ t.smp.smp_state = .issue ∧ t.inputs = rest ∧
      t.smp.mode.toNat = (s.smp.mode.toNat + sampledReleases s.smp.prev_button_state (l.map (·.first.button_in))) % 3 ∧
      t.smp.raw_sample = ((l.getLast?).map (·.last.adc_result)).getD s.smp.raw_sample) ∧
  sampledReleases false [true, false, true, false, true, false] = 3 ∧
  sampledReleases false [true, false, true, false] = 2 ∧
  ∀ n, sampledReleases false (List.replicate n true) = 0 ∧ sampledReleases false (List.replicate n false) = 0

/-- R206: under BUTTON_CLEAN between two successive samples (the button changes at most once), the second SMP_ISSUE advances
the mode by the number of physical releases between them. -/
def Obligations.CleanButtonAdvancesOncePerRelease : Prop :=
  ∀ (s t u : State) (k : Nat) (v : Sample), s.Inv → s.smp.smp_state = .issue → s.NoReset (k + 2) →
    s.AdcAnswers k v → s.buttonChanges (k + 1) ≤ 1 → run (k + 1) s = .next t → step t = .next u →
    u.smp.mode.toNat = (t.smp.mode.toNat + s.buttonReleases (k + 1)) % 3

/-- R208: what this cycle's operation changes is first used by the first fire in a later cycle, at most P cycles on, and so
reaches the line between 2 and P + 1 cycles after this one: a sample latched in this cycle (clause 2), a mode made by this
cycle's SMP_ISSUE (clause 3), where no further completion comes before that fire. -/
def Obligations.ChangeReachesTheLine : Prop :=
  ∀ s : State, s.Inv → s.NoReset (s.cfg.PERIOD_TICKS + 2) →
    ∃ d t u, 1 ≤ d ∧ d ≤ s.cfg.PERIOD_TICKS ∧ run d s = .next t ∧ t.Fires ∧
      (∀ e x, 1 ≤ e → e < d → run e s = .next x → ¬ x.Fires) ∧
      (decode (selS s) = .ok .smpLatch → (∀ e, 1 ≤ e → e < d → (s.inputAt e).adc_done = false) →
        t.smp.raw_sample = s.input.adc_result) ∧
      (∀ v, decode (selS s) = .ok (.smpIssue s.input.adc_done) → run 1 s = .next v →
        (∀ e, 1 ≤ e → e < d → (s.inputAt e).adc_done = false) → t.smp.mode = v.smp.mode) ∧
      run (d + 1) s = .next u ∧ width s.cfg t.smp.mode t.smp.raw_sample = some u.pg.pulse_width ∧
      (u.output.pwm_out = true ↔ 0 < u.pg.pulse_width)

/-- R204 (ADC_LIVE, for one conversion): where some later cycle reports a completion and no reset comes up to it, the
conversion that this cycle starts is latched in the first such cycle. -/
def Obligations.LiveAdcCompletesTheConversion : Prop :=
  ∀ (s : State) (n : Nat), s.Inv → s.smp.smp_state = .issue → s.NoReset (n + 1) → s.AdcLive n →
    ∃ k t, 1 ≤ k ∧ k ≤ n ∧ (s.inputAt k).adc_done = true ∧ (∀ j, 1 ≤ j → j < k → (s.inputAt j).adc_done = false) ∧
      run k s = .next t ∧ decode (selS t) = .ok .smpLatch ∧
      ∃ u, step t = .next u ∧ u.smp.raw_sample = (s.inputAt k).adc_result ∧ u.smp.smp_state = .issue

/-- R3: data flows one way. The Sampler's registers do not depend on the Pulse Generator's or on the parameters; the Pulse
Generator's depend on the Sampler's through `raw_sample` and `mode` only. -/
def Obligations.DataFlowsOneWay : Prop :=
  (∀ (n : Nat) (s s' t t' : State), s.smp = s'.smp → s.inputs = s'.inputs → s.drawn = s'.drawn →
    run n s = .next t → run n s' = .next t' → t.smp = t'.smp) ∧
  ∀ s s' t t' : State, s.cfg = s'.cfg → s.pg = s'.pg → s.input.rst = s'.input.rst →
    s.smp.raw_sample = s'.smp.raw_sample → s.smp.mode = s'.smp.mode →
    step s = .next t → step s' = .next t' → t.pg = t'.pg

/-- R20, R23, R29: `button_state` and `ovr` are observable only: no cycle count, register or output ever depends on them. -/
def Obligations.ObservableOnlyRegisters : Prop :=
  ∀ (n : Nat) (s t : State) (b o : Bool), run n s = .next t →
    ∃ b' o', run n { s with smp := { s.smp with button_state := b }, pg := { s.pg with ovr := o } } =
        .next { t with smp := { t.smp with button_state := b' }, pg := { t.pg with ovr := o' } } ∧
      outputWords n { s with smp := { s.smp with button_state := b }, pg := { s.pg with ovr := o } } = outputWords n s

/-- A selector placed for the next step is the one the next step computes and performs (the model's own interface, log 12):
for every selector that R79 can produce, with a configuration whose N_TICK bits hold P + 1. A Pulse Generator selector is
performed from any state; a Sampler selector from any state that is not ill-formed, and RESET's from any. The step's
registers of the selector's agent are those of the operation, and a fault of the operation is the step's. -/
def Obligations.PlacedSelectorIsPerformed : Prop :=
  ∀ (s p : State) (w : Selector) (i : Instr), decode w = .ok i → s.cfg.WellFormed →
    s.cfg.PERIOD_TICKS + 1 < 2 ^ nTick s.cfg → p = s.withFetchWord 6 w.toNat →
    (w.getLsbD 4 = true → selP p = w ∧ p.Legal ∧ (∀ r, exec i p = .fault r → step p = .fault r) ∧
      (s.smp.mode ≠ 3 → ∃ t b, step p = .next t ∧ exec i p = .next b ∧ t.pg = b.pg)) ∧
    (w.getLsbD 4 = false → w.getLsbD 1 = false → selS p = w ∧ (s.Legal → p.Legal) ∧
      (w.getLsbD 5 = true ∨ s.Legal → (∀ r, exec i p = .fault r → step p = .fault r) ∧
        (s.smp.mode ≠ 3 → ∃ t a, step p = .next t ∧ exec i p = .next a ∧ t.smp = a.smp)))
end

