-- ==== Sys2Proof/Laws/Operands.lean ====
section
/-! SUPPORT. What the functions of the operations give: one lemma per function (R101, R102, R134, R135, R8). -/

namespace Sys2Proof.Machine

@[simp] theorem releaseEdge_eq_true {prev b : Bool} : releaseEdge prev b = true ↔ prev = true ∧ b = false := by
  cases prev <;> cases b <;> decide

@[simp] theorem releaseEdge_eq_false {prev b : Bool} : releaseEdge prev b = false ↔ (prev = true → b = true) := by
  cases prev <;> cases b <;> decide

/-- The three modes are all but the reserved code. -/
theorem mode_ne_three_iff {m : ModeBits} : m ≠ 3 ↔ m.toNat ≤ 2 := by revert m; decide

theorem nextMode_eq_none {m : ModeBits} : nextMode m = none ↔ m = 3 := by revert m; decide

/-- The mode advance is one step modulo three, and never gives the reserved code. -/
theorem nextMode_eq_some {m n : ModeBits} (h : nextMode m = some n) :
    m.toNat ≤ 2 ∧ n.toNat ≤ 2 ∧ n.toNat = (m.toNat + 1) % 3 := by
  revert h; revert m n; decide

theorem nextMode_of_le {m : ModeBits} (h : m.toNat ≤ 2) :
    nextMode m = some (BitVec.ofNat 2 ((m.toNat + 1) % 3)) := by
  revert m; decide

theorem divisor_eq_none {m : ModeBits} : divisor m = none ↔ m = 3 := by revert m; decide

/-- The divisors are positive. -/
theorem divisor_pos {m : ModeBits} {d : Ratio} (h : divisor m = some d) : 0 < d.num ∧ 0 < d.den := by
  unfold divisor at h
  split at h <;> cases h <;> decide

/-- Truncating division stays within one of the exact quotient, on zero's side. -/
theorem tdiv_mono {a a' b : Int} (hb : 0 < b) (h : a ≤ a') : tdiv a b ≤ tdiv a' b := by
  have h1 : a / b ≤ a' / b := Int.ediv_le_ediv hb h
  have h2 : -a' / b ≤ -a / b := Int.ediv_le_ediv hb (by omega)
  unfold tdiv
  split <;> split
  · exact h1
  · omega
  · have h3 := Int.ediv_nonneg (a := -a) (b := b) (by omega) hb.le
    have h4 := Int.ediv_nonneg (a := a') (b := b) (by omega) hb.le
    omega
  · omega

theorem clamp_mono {v v' lo hi : Int} (h : v ≤ v') : clamp v lo hi ≤ clamp v' lo hi := by
  unfold clamp; omega

theorem width_eq_none {c : Config} {m : ModeBits} {s : Sample} : width c m s = none ↔ m = 3 := by
  simp [width, widthRaw, divisor_eq_none]

theorem exists_width {c : Config} {m : ModeBits} (s : Sample) (h : m ≠ 3) : ∃ w, width c m s = some w := by
  rcases hw : width c m s with _ | w
  · exact absurd (width_eq_none.mp hw) h
  · exact ⟨w, rfl⟩

/-- The width lies within the clamp's bounds (R135). -/
theorem width_bounds {c : Config} {m : ModeBits} {s : Sample} {w : Nat} (hc : c.MIN_PULSE ≤ c.MAX_PULSE)
    (h : width c m s = some w) : c.MIN_PULSE ≤ w ∧ w ≤ c.MAX_PULSE := by
  unfold width at h
  rcases hv : widthRaw c m s with _ | v <;> rw [hv] at h
  · cases h
  · simp only [Option.map_some, Option.some.injEq] at h
    subst h
    unfold clamp
    omega

/-- `nTick` is the smallest width that holds P values (R8). -/
theorem nTick_le_iff (c : Config) (n : Nat) : nTick c ≤ n ↔ c.PERIOD_TICKS ≤ 2 ^ n := by
  unfold nTick
  split
  · rename_i h
    simp only [Nat.zero_le, true_iff]
    exact h.trans Nat.one_le_two_pow
  · rename_i h
    have h2 : c.PERIOD_TICKS - 1 ≠ 0 := by omega
    rw [Nat.add_one_le_iff, Nat.log2_lt h2]
    omega

theorem period_le_two_pow_nTick (c : Config) : c.PERIOD_TICKS ≤ 2 ^ nTick c := (nTick_le_iff c _).mp le_rfl

end Sys2Proof.Machine
end

