-- ==== Sys2Proof/Laws/PerInstr.lean ====
section
/-! SUPPORT. A fact of every operation's encoding, one lemma per constructor: the encoded selector lies in the operation's
own row of R80 (`w AND mask == match`). -/

namespace Sys2Proof.Laws.RowOfEncoding

/-- The match and mask of an operation's row (R80). -/
def rowOf : Instr → Selector × Selector
  | .reset _ => (0x20, 0x20)
  | .smpIssue _ => (0x00, 0x3B)
  | .smpWait => (0x08, 0x3F)
  | .smpLatch => (0x0C, 0x3F)
  | .pgIdle _ => (0x10, 0x3D)
  | .pgHold => (0x14, 0x3F)
  | .pgEnd => (0x16, 0x3F)
  | .pgFire _ => (0x18, 0x3D)
  | .pgFireOvr _ => (0x1C, 0x3D)

def Statement (i : Instr) : Prop := (encode i &&& (rowOf i).2) = (rowOf i).1

theorem reset : ∀ x, Statement (.reset x) := by unfold Statement; decide
theorem smpIssue : ∀ d, Statement (.smpIssue d) := by unfold Statement; decide
theorem smpWait : Statement .smpWait := by unfold Statement; decide
theorem smpLatch : Statement .smpLatch := by unfold Statement; decide
theorem pgIdle : ∀ k, Statement (.pgIdle k) := by unfold Statement; decide
theorem pgHold : Statement .pgHold := by unfold Statement; decide
theorem pgEnd : Statement .pgEnd := by unfold Statement; decide
theorem pgFire : ∀ k, Statement (.pgFire k) := by unfold Statement; decide
theorem pgFireOvr : ∀ k, Statement (.pgFireOvr k) := by unfold Statement; decide

end Sys2Proof.Laws.RowOfEncoding
end

