-- ==== Sys2Proof/Laws/State.lean ====
section
/-! SUPPORT. The fields of State after each named update, one lemma per field, so that no proof unfolds a record update. -/

namespace Sys2Proof.Machine

section ClockEdge
variable (s : State) (a : Sampler) (b : PulseGen)

@[simp] theorem State.clockEdge_cfg : (s.clockEdge a b).cfg = s.cfg := rfl
@[simp] theorem State.clockEdge_smp : (s.clockEdge a b).smp = a := rfl
@[simp] theorem State.clockEdge_pg : (s.clockEdge a b).pg = b := rfl
@[simp] theorem State.clockEdge_inputs : (s.clockEdge a b).inputs = s.inputs.tail := rfl
@[simp] theorem State.clockEdge_drawn : (s.clockEdge a b).drawn = s.drawn + 1 := rfl

end ClockEdge

section ResetWith
variable (c : Config) (ins : List Input)

@[simp] theorem State.resetWith_cfg : (State.resetWith c ins).cfg = c := rfl
@[simp] theorem State.resetWith_smp : (State.resetWith c ins).smp = Sampler.reset := rfl
@[simp] theorem State.resetWith_pg : (State.resetWith c ins).pg = PulseGen.reset := rfl
@[simp] theorem State.resetWith_inputs : (State.resetWith c ins).inputs = ins := rfl
@[simp] theorem State.resetWith_drawn : (State.resetWith c ins).drawn = 0 := rfl

end ResetWith

@[simp] theorem Sampler.reset_raw_sample : Sampler.reset.raw_sample = 0 := rfl
@[simp] theorem Sampler.reset_mode : Sampler.reset.mode = 0 := rfl
@[simp] theorem Sampler.reset_button_state : Sampler.reset.button_state = false := rfl
@[simp] theorem Sampler.reset_prev_button_state : Sampler.reset.prev_button_state = false := rfl
@[simp] theorem Sampler.reset_smp_state : Sampler.reset.smp_state = .issue := rfl

@[simp] theorem PulseGen.reset_tcnt : PulseGen.reset.tcnt = 0 := rfl
@[simp] theorem PulseGen.reset_pulse_width : PulseGen.reset.pulse_width = 0 := rfl
@[simp] theorem PulseGen.reset_pwm_q : PulseGen.reset.pwm_q = .low := rfl
@[simp] theorem PulseGen.reset_ovr : PulseGen.reset.ovr = false := rfl

section PulseUpdates
variable (p : PulseGen)

@[simp] theorem tickUp_tcnt : (tickUp p).tcnt = p.tcnt + 1 := rfl
@[simp] theorem tickUp_pulse_width : (tickUp p).pulse_width = p.pulse_width := rfl
@[simp] theorem tickUp_pwm_q : (tickUp p).pwm_q = p.pwm_q := rfl
@[simp] theorem tickUp_ovr : (tickUp p).ovr = p.ovr := rfl

@[simp] theorem pulseReturn_tcnt : (pulseReturn p).tcnt = p.tcnt + 1 := rfl
@[simp] theorem pulseReturn_pulse_width : (pulseReturn p).pulse_width = p.pulse_width := rfl
@[simp] theorem pulseReturn_pwm_q : (pulseReturn p).pwm_q = .low := rfl
@[simp] theorem pulseReturn_ovr : (pulseReturn p).ovr = p.ovr := rfl

@[simp] theorem setOvr_tcnt : (setOvr p).tcnt = p.tcnt := rfl
@[simp] theorem setOvr_pulse_width : (setOvr p).pulse_width = p.pulse_width := rfl
@[simp] theorem setOvr_pwm_q : (setOvr p).pwm_q = p.pwm_q := rfl
@[simp] theorem setOvr_ovr : (setOvr p).ovr = true := rfl

end PulseUpdates

@[simp] theorem Level.bit_high : Level.high.bit = true := rfl
@[simp] theorem Level.bit_low : Level.low.bit = false := rfl
@[simp] theorem SmpState.bit_issue : SmpState.issue.bit = false := rfl
@[simp] theorem SmpState.bit_wait : SmpState.wait.bit = true := rfl

/-- A line that is not HIGH is LOW. -/
theorem Level.eq_low_of_ne_high {l : Level} (h : l ≠ .high) : l = .low := by cases l <;> simp_all

/-! The inputs of the cycles to come. -/

/-- The inputs of a cycle after the edge are those of the cycle after it before the edge. -/
@[simp] theorem State.inputAt_clockEdge (s : State) (a : Sampler) (b : PulseGen) (k : Nat) :
    (s.clockEdge a b).inputAt k = s.inputAt (k + 1) := by
  have h : s.drawn + 1 + k = s.drawn + (k + 1) := by omega
  simp only [State.inputAt, State.clockEdge_inputs, State.clockEdge_drawn, List.drop_tail, h]

@[simp] theorem State.input_clockEdge (s : State) (a : Sampler) (b : PulseGen) :
    (s.clockEdge a b).input = s.inputAt 1 := State.inputAt_clockEdge s a b 0

theorem State.inputAt_zero (s : State) : s.inputAt 0 = s.input := rfl

/-- The inputs of a listed cycle. -/
theorem State.inputAt_of_getElem? {s : State} {k : Nat} {i : Input} (h : s.inputs[k]? = some i) :
    s.inputAt k = i := by
  obtain ⟨hk, rfl⟩ := List.getElem?_eq_some_iff.mp h
  rw [State.inputAt, List.drop_eq_getElem_cons hk]

/-- The inputs ahead depend on the list and the counter alone. -/
theorem State.inputAt_congr {s t : State} (hi : s.inputs = t.inputs) (hd : s.drawn = t.drawn) (k : Nat) :
    s.inputAt k = t.inputAt k := by simp [State.inputAt, hi, hd]

end Sys2Proof.Machine
end

