-- ==== Sys2Proof/Laws/Selector.lean ====
section
/-! SUPPORT. Which operation each agent's selector decodes to (R79, R80), in closed form, and what the shared operations
of Machine/Ops.lean answer. -/

namespace Sys2Proof.Machine

/-- The Sampler's operation straight from the conditions of R79. -/
def samplerOp (s : State) : Instr :=
  match s.input.rst, s.smp.smp_state, s.input.adc_done with
  | true, p, d => .reset (0#1 ++ BitVec.ofBool p.bit ++ BitVec.ofBool d ++ 0b00#2 : BitVec (1 + 1 + 1 + 2))
  | false, .issue, d => .smpIssue d
  | false, .wait, false => .smpWait
  | false, .wait, true => .smpLatch

/-- The Pulse Generator's operation straight from the conditions of R79. -/
def pulseOp (s : State) : Instr :=
  match s.input.rst, ev s, s.pg.pwm_q, reach s with
  | true, e, p, k =>
    .reset (1#1 ++ BitVec.ofBool e ++ BitVec.ofBool p.bit ++ BitVec.ofBool k ++ 0#1 : BitVec (1 + 1 + 1 + 1 + 1))
  | false, false, .low, k => .pgIdle k
  | false, false, .high, false => .pgHold
  | false, false, .high, true => .pgEnd
  | false, true, .low, k => .pgFire k
  | false, true, .high, k => .pgFireOvr k

theorem decode_selS (s : State) : decode (selS s) = .ok (samplerOp s) := by
  simp only [selS, samplerOp]
  generalize s.input.rst = r, s.smp.smp_state = p, s.input.adc_done = d
  cases r <;> cases p <;> cases d <;> rfl

theorem decode_selP (s : State) : decode (selP s) = .ok (pulseOp s) := by
  simp only [selP, pulseOp]
  generalize s.input.rst = r, ev s = e, s.pg.pwm_q = p, reach s = k
  cases r <;> cases e <;> cases p <;> cases k <;> rfl

@[simp] theorem ev_eq_true {s : State} : ev s = true ↔ s.pg.tcnt = s.cfg.PERIOD_TICKS - 1 := by simp [ev]
@[simp] theorem ev_eq_false {s : State} : ev s = false ↔ s.pg.tcnt ≠ s.cfg.PERIOD_TICKS - 1 := by simp [ev]
@[simp] theorem reach_eq_true {s : State} : reach s = true ↔ s.pg.pulse_width ≤ s.pg.tcnt + 1 := by simp [reach]
@[simp] theorem reach_eq_false {s : State} : reach s = false ↔ s.pg.tcnt + 1 < s.pg.pulse_width := by simp [reach]

section OpOfConditions
variable {s : State} (h : s.input.rst = false)
include h

theorem pulseOp_idle (he : ev s = false) (hq : s.pg.pwm_q = .low) : pulseOp s = .pgIdle (reach s) := by
  simp [pulseOp, h, he, hq]

theorem pulseOp_hold (he : ev s = false) (hq : s.pg.pwm_q = .high) (hr : reach s = false) : pulseOp s = .pgHold := by
  simp [pulseOp, h, he, hq, hr]

theorem pulseOp_end (he : ev s = false) (hq : s.pg.pwm_q = .high) (hr : reach s = true) : pulseOp s = .pgEnd := by
  simp [pulseOp, h, he, hq, hr]

theorem pulseOp_fire (he : ev s = true) (hq : s.pg.pwm_q = .low) : pulseOp s = .pgFire (reach s) := by
  simp [pulseOp, h, he, hq]

theorem pulseOp_fireOvr (he : ev s = true) (hq : s.pg.pwm_q = .high) : pulseOp s = .pgFireOvr (reach s) := by
  simp [pulseOp, h, he, hq]

theorem samplerOp_issue (hp : s.smp.smp_state = .issue) : samplerOp s = .smpIssue s.input.adc_done := by
  simp [samplerOp, h, hp]

theorem samplerOp_wait (hp : s.smp.smp_state = .wait) (hd : s.input.adc_done = false) : samplerOp s = .smpWait := by
  simp [samplerOp, h, hp, hd]

theorem samplerOp_latch (hp : s.smp.smp_state = .wait) (hd : s.input.adc_done = true) : samplerOp s = .smpLatch := by
  simp [samplerOp, h, hp, hd]

end OpOfConditions

/-- The join of two operations is a next state exactly when both are, and then it is the clock edge of their registers. -/
theorem joinAgents_eq_next {s t : State} {a b : Host.Outcome State Fault Refusal} :
    joinAgents s a b = .next t ↔ ∃ x y, a = .next x ∧ b = .next y ∧ t = s.clockEdge x.smp y.pg := by
  cases a <;> cases b <;> simp [joinAgents, eq_comm]

/-- The timer interrupt's entry answers a next state exactly where the mode is legal, and then only the three registers of
R174 (and what `p` holds) differ. -/
theorem periodEventEntry_eq_next {s t : State} {p : PulseGen} :
    periodEventEntry s p = .next t ↔ ∃ w, width s.cfg s.smp.mode s.smp.raw_sample = some w ∧
      t = { s with pg := { tcnt := 0, pulse_width := w, pwm_q := if 0 < w then .high else .low, ovr := p.ovr } } := by
  unfold periodEventEntry
  cases width s.cfg s.smp.mode s.smp.raw_sample <;> simp [eq_comm]

end Sys2Proof.Machine
end

