-- ==== Sys2Proof/Laws/Step.lean ====
section
/-! SUPPORT. The step in closed form: what one cycle does to the two agents' registers, said once, and its inversion. -/

namespace Sys2Proof.Machine

/-- The mode an SMP_ISSUE leaves (R103). -/
def modeAfterSample (s : State) : Option ModeBits :=
  if releaseEdge s.smp.prev_button_state s.input.button_in then nextMode s.smp.mode else some s.smp.mode

/-- The Sampler's next registers in a cycle without reset (R103 to R105). -/
def samplerNext (s : State) : Option Sampler :=
  match s.smp.smp_state with
  | .issue => (modeAfterSample s).map fun m =>
      { raw_sample := s.smp.raw_sample, mode := m, button_state := s.input.button_in,
        prev_button_state := s.input.button_in, smp_state := .wait }
  | .wait => some (if s.input.adc_done then { s.smp with raw_sample := s.input.adc_result, smp_state := .issue } else s.smp)

/-- The Pulse Generator's next registers in a cycle without reset (R137 to R141). -/
def pulseNext (s : State) : Option PulseGen :=
  if s.pg.tcnt = s.cfg.PERIOD_TICKS - 1 then
    (width s.cfg s.smp.mode s.smp.raw_sample).map fun w =>
      { tcnt := 0, pulse_width := w, pwm_q := if 0 < w then .high else .low, ovr := s.pg.ovr || s.pg.pwm_q.bit }
  else
    some { tcnt := s.pg.tcnt + 1, pulse_width := s.pg.pulse_width,
           pwm_q := if s.pg.pwm_q = .high ∧ s.pg.tcnt + 1 < s.pg.pulse_width then .high else .low, ovr := s.pg.ovr }

theorem exec_samplerOp {s : State} (h : s.input.rst = false) :
    exec (samplerOp s) s = match samplerNext s with
      | some a => .next { s with smp := a }
      | none => .fault .reservedMode := by
  rcases hp : s.smp.smp_state with _ | _
  · rw [samplerOp_issue h hp]
    simp only [exec, execSmpIssue, samplerNext, hp, modeAfterSample]
    cases (if releaseEdge s.smp.prev_button_state s.input.button_in = true then nextMode s.smp.mode else
      some s.smp.mode) <;> rfl
  · rcases hd : s.input.adc_done with _ | _
    · simp [samplerOp_wait h hp hd, exec, execSmpWait, samplerNext, hp, hd]
    · simp [samplerOp_latch h hp hd, exec, execSmpLatch, samplerNext, hp, hd]

theorem exec_pulseOp {s : State} (h : s.input.rst = false) :
    exec (pulseOp s) s = match pulseNext s with
      | some b => .next { s with pg := b }
      | none => .fault .reservedMode := by
  rcases he : ev s with _ | _ <;> have he' := he
  · rw [ev_eq_false] at he'
    rcases hq : s.pg.pwm_q with _ | _
    · simp [pulseOp_idle h he hq, exec, execPgIdle, tickUp, pulseNext, he', hq]
    · rcases hr : reach s with _ | _ <;> have hr' := hr
      · rw [reach_eq_false] at hr'
        simp [pulseOp_hold h he hq hr, exec, execPgHold, tickUp, pulseNext, he', hq, hr']
      · rw [reach_eq_true] at hr'
        simp [pulseOp_end h he hq hr, exec, execPgEnd, pulseReturn, tickUp, pulseNext, he', Nat.not_lt.mpr hr']
  · rw [ev_eq_true] at he'
    rcases hq : s.pg.pwm_q with _ | _
    · simp only [pulseOp_fire h he hq, exec, execPgFire, periodEventEntry, pulseNext, he', if_true]
      cases width s.cfg s.smp.mode s.smp.raw_sample <;> simp [hq]
    · simp only [pulseOp_fireOvr h he hq, exec, execPgFireOvr, periodEventEntry, setOvr, pulseNext, he', if_true]
      cases width s.cfg s.smp.mode s.smp.raw_sample <;> simp [hq]

theorem exec_reset_ops {s : State} (h : s.input.rst = true) :
    exec (samplerOp s) s = execReset s ∧ exec (pulseOp s) s = execReset s := by
  simp [samplerOp, pulseOp, h, exec]

/-- A cycle in which `rst` = 1 (R81, R200). -/
theorem step_of_rst {s : State} (hc : s.cfg.WellFormed) (h : s.input.rst = true) :
    step s = .next (s.clockEdge Sampler.reset PulseGen.reset) := by
  obtain ⟨h1, h2⟩ := exec_reset_ops h
  simp only [step, runCycle, refusalOf, not_not.mpr hc, h, runAgents, decode_selS, decode_selP, h1, h2, if_false]
  simp [execReset, joinAgents]

/-- A cycle in which `rst` = 0, from a state that nothing refuses (R13). -/
theorem step_of_not_rst {s : State} (hc : s.cfg.WellFormed) (hl : s.Legal) (h : s.input.rst = false) :
    step s = match samplerNext s, pulseNext s with
      | some a, some b => .next (s.clockEdge a b)
      | _, _ => .fault .reservedMode := by
  have hr : refusalOf s = none := by
    simp only [refusalOf, not_not.mpr hc, not_not.mpr hl, and_false, if_false]
  simp only [step, runCycle, hr, runAgents, decode_selS, decode_selP, exec_samplerOp h, exec_pulseOp h]
  cases samplerNext s <;> cases pulseNext s <;> rfl

theorem step_of_illFormedConfig {s : State} (hc : ¬ s.cfg.WellFormed) : step s = .refused .illFormedConfig := by
  simp only [step, runCycle, refusalOf, hc, not_false_eq_true, if_true]

theorem step_of_illFormedState {s : State} (hc : s.cfg.WellFormed) (h : s.input.rst = false) (hl : ¬ s.Legal) :
    step s = .refused .illFormedState := by
  simp only [step, runCycle, refusalOf, not_not.mpr hc, hl, h, not_false_eq_true, and_self, if_true, if_false]

/-- Everything a step to a next state can be: RESET from any state, or the two agents' next registers. -/
theorem step_eq_next {s t : State} (h : step s = .next t) :
    s.cfg.WellFormed ∧
    ((s.input.rst = true ∧ t = s.clockEdge Sampler.reset PulseGen.reset) ∨
     (s.input.rst = false ∧ s.Legal ∧ ∃ a b, samplerNext s = some a ∧ pulseNext s = some b ∧ t = s.clockEdge a b)) := by
  by_cases hc : s.cfg.WellFormed
  · refine ⟨hc, ?_⟩
    rcases hr : s.input.rst with _ | _
    · right
      by_cases hl : s.Legal
      · rw [step_of_not_rst hc hl hr] at h
        split at h
        · rename_i a b ha hb
          cases h
          exact ⟨rfl, hl, a, b, ha, hb, rfl⟩
        · cases h
      · rw [step_of_illFormedState hc hr hl] at h; cases h
    · left
      rw [step_of_rst hc hr] at h
      cases h
      exact ⟨rfl, rfl⟩
  · rw [step_of_illFormedConfig hc] at h; cases h

theorem samplerNext_eq_none {s : State} :
    samplerNext s = none ↔ s.smp.smp_state = .issue ∧ s.smp.prev_button_state = true ∧
      s.input.button_in = false ∧ s.smp.mode = 3 := by
  unfold samplerNext modeAfterSample
  rcases s.smp.smp_state with _ | _
  · by_cases hr : releaseEdge s.smp.prev_button_state s.input.button_in = true
    · simp [nextMode_eq_none, releaseEdge_eq_true.mp hr]
    · have := hr
      rw [releaseEdge_eq_true] at this
      simp only [hr, Option.map_eq_none_iff, true_and]
      simp only [Bool.false_eq_true, if_false, reduceCtorEq, false_iff]
      tauto
  · simp

theorem pulseNext_eq_none {s : State} :
    pulseNext s = none ↔ s.pg.tcnt = s.cfg.PERIOD_TICKS - 1 ∧ s.smp.mode = 3 := by
  unfold pulseNext
  split <;> simp_all [width_eq_none]

/-- A cycle answers a next state wherever nothing refuses it and the mode is legal. -/
theorem exists_step {s : State} (hc : s.cfg.WellFormed) (hl : s.Legal) (hm : s.smp.mode ≠ 3) : ∃ t, step s = .next t := by
  rcases hr : s.input.rst with _ | _
  · rw [step_of_not_rst hc hl hr]
    rcases ha : samplerNext s with _ | a
    · exact absurd (samplerNext_eq_none.mp ha).2.2.2 hm
    · rcases hb : pulseNext s with _ | b
      · exact absurd (pulseNext_eq_none.mp hb).2 hm
      · exact ⟨_, rfl⟩
  · exact ⟨_, step_of_rst hc hr⟩

/-- Every cycle moves past its inputs. -/
theorem inputAt_of_step {s t : State} (h : step s = .next t) (k : Nat) : t.inputAt k = s.inputAt (k + 1) := by
  obtain ⟨-, ⟨-, rfl⟩ | ⟨-, -, a, b, -, -, rfl⟩⟩ := step_eq_next h <;> exact State.inputAt_clockEdge ..

theorem cfg_of_step {s t : State} (h : step s = .next t) : t.cfg = s.cfg := by
  obtain ⟨-, ⟨-, rfl⟩ | ⟨-, -, a, b, -, -, rfl⟩⟩ := step_eq_next h <;> rfl

/-! Runs. -/

@[simp] theorem run_zero (s : State) : run 0 s = .next s := rfl

theorem run_succ_of_step {s t : State} (h : step s = .next t) (n : Nat) : run (n + 1) s = run n t := by
  simp [run, h]

theorem run_succ_eq_next {n : Nat} {s u : State} : run (n + 1) s = .next u ↔ ∃ t, step s = .next t ∧ run n t = .next u := by
  rw [run]
  cases step s <;> simp

/-- A run's last cycle taken apart. -/
theorem run_succ_last {n : Nat} {s u : State} : run (n + 1) s = .next u ↔ ∃ t, run n s = .next t ∧ step t = .next u := by
  induction n generalizing s with
  | zero => simp [run_succ_eq_next]
  | succ n ih =>
    rw [run_succ_eq_next]
    constructor
    · rintro ⟨t, h1, h2⟩
      obtain ⟨v, h3, h4⟩ := ih.mp h2
      exact ⟨v, run_succ_eq_next.mpr ⟨t, h1, h3⟩, h4⟩
    · rintro ⟨v, h1, h2⟩
      obtain ⟨t, h3, h4⟩ := run_succ_eq_next.mp h1
      exact ⟨t, h3, ih.mpr ⟨v, h4, h2⟩⟩

/-- Packaged induction: what a step keeps, a run keeps. -/
theorem run_keeps {I : State → Prop} (hstep : ∀ s t, I s → step s = .next t → I t) {n : Nat} {s t : State}
    (hs : I s) (h : run n s = .next t) : I t := by
  induction n generalizing s with
  | zero => cases h; exact hs
  | succ n ih =>
    obtain ⟨u, h1, h2⟩ := run_succ_eq_next.mp h
    exact ih (hstep s u hs h1) h2

theorem cfg_of_run {n : Nat} {s t : State} (h : run n s = .next t) : t.cfg = s.cfg :=
  run_keeps (I := fun u => u.cfg = s.cfg) (fun _ _ hu h => (cfg_of_step h).trans hu) rfl h

theorem inputAt_of_run {n : Nat} {s t : State} (h : run n s = .next t) (k : Nat) : t.inputAt k = s.inputAt (n + k) := by
  induction n generalizing s with
  | zero => cases h; simp
  | succ n ih =>
    obtain ⟨u, h1, h2⟩ := run_succ_eq_next.mp h
    rw [ih h2, inputAt_of_step h1]
    congr 1
    omega

theorem core_run_succ (M : Host.Core) (n : Nat) (s : M.State) : M.run (n + 1) s =
    match M.step s with
    | .next t => M.run n t
    | .fault r => .fault r
    | .refused r => .refused r := rfl

/-- The model's run is the host's run of the machine. -/
theorem run_eq_core_run (n : Nat) (s : State) : run n s = Sys2Proof.core.run n s := by
  induction n generalizing s with
  | zero => rfl
  | succ n ih =>
    refine Eq.trans ?_ (core_run_succ Sys2Proof.core n s).symm
    have hs : Sys2Proof.core.step s = step s := rfl
    rw [run, hs]
    cases step s
    · exact ih _
    · rfl
    · rfl

end Sys2Proof.Machine
end

