-- ==== Sys2Proof/Tests/Slice0.lean ====
section
/-! SUPPORT. Tests of the model, their expected results taken from spec/95_test_vectors.md (V-…) and from R80's patterns,
and for every statement with hypotheses a witness that meets them. -/

namespace Sys2Proof.Tests

open Sys2Proof Sys2Proof.Machine

/-- Configuration TC of spec/95_test_vectors.md (V-C1). -/
def tc : Config := ⟨8, 4, 1, 7⟩

/-- Configuration TC0 (V-C2). -/
def tc0 : Config := ⟨8, 4, 0, 7⟩

/-- The configuration of V-C8. -/
def big : Config := ⟨1024, 380, 175, 584⟩

/-- The cycles of a list of input words. -/
def cycles (ws : List Nat) : List Input := ws.map fun w => Input.ofWord (BitVec.ofNat 13 w)

/-- A state in the vectors' notation `tcnt pwm_q pulse_width mode raw_sample smp_state prev ovr`, at TC. -/
def st (t : Nat) (q : Level) (w m r : Nat) (p : SmpState) (prev ovr : Bool) (words : List Nat) : State :=
  { cfg := tc
    smp := ⟨BitVec.ofNat 10 r, BitVec.ofNat 2 m, prev, prev, p⟩
    pg := ⟨t, w, q, ovr⟩
    inputs := cycles words
    drawn := 0 }

/-- The outcome is a next state with these registers. -/
def gives (o : Host.Outcome State Fault Refusal) (smp : Sampler) (pg : PulseGen) : Bool :=
  match o with
  | .next t => t.smp == smp && t.pg == pg
  | .fault _ => false
  | .refused _ => false

/-- The outcome is this fault. -/
def faults (o : Host.Outcome State Fault Refusal) (r : Fault) : Bool :=
  match o with
  | .next _ => false
  | .fault r' => r' == r
  | .refused _ => false

/-- The outcome is this refusal. -/
def refuses (o : Host.Outcome State Fault Refusal) (r : Refusal) : Bool :=
  match o with
  | .next _ => false
  | .fault _ => false
  | .refused r' => r' == r

/-- The selector of a decode, given as bits. -/
def decodes (w : Selector) (i : Instr) : Bool :=
  match decode w with
  | .ok j => j == i
  | .error _ => false

/-- The selector is rejected with this reason. -/
def rejects (w : Selector) (r : Reject) : Bool :=
  match decode w with
  | .ok _ => false
  | .error r' => r' == r

/-! ## WellFormed -/

/-- V-C1, V-C2, V-C7, V-C8. -/
theorem test_wellFormed_accepts : tc.WellFormed ∧ tc0.WellFormed ∧ Config.WellFormed ⟨2, 0, 0, 1⟩ ∧ big.WellFormed := by
  decide

/-- V-C3. -/
theorem test_wellFormed_max : ¬ Config.WellFormed ⟨8, 4, 1, 8⟩ := by decide
/-- V-C4. -/
theorem test_wellFormed_min : ¬ Config.WellFormed ⟨8, 4, 5, 7⟩ := by decide
/-- V-C5. -/
theorem test_wellFormed_base : ¬ Config.WellFormed ⟨8, 8, 1, 7⟩ := by decide
/-- V-C6. -/
theorem test_wellFormed_period : ¬ Config.WellFormed ⟨1, 0, 0, 0⟩ := by decide
/-- R171: such a configuration refuses the step, here V-C3's. -/
theorem test_illFormedConfig_refused :
    refuses (step (State.resetWith ⟨8, 4, 1, 8⟩ (cycles [0]))) .illFormedConfig = true := by decide

/-- R82: a selector with bit 0 set. -/
theorem test_wellFormed_instr : (Instr.reset 1).wellFormed = false ∧ (Instr.reset 0).wellFormed = true := by decide
/-- R85, R86: b = 2, v = 1024, n = 0. -/
theorem test_wellFormed_stmt :
    (Stmt.cyc 2).wellFormed = false ∧ (Stmt.done 2 0).wellFormed = false ∧ (Stmt.done 0 1024).wellFormed = false ∧
    (Stmt.rep 0 .rst).wellFormed = false ∧ (Stmt.rep 1 (.cyc 2)).wellFormed = false := by decide

/-! ## Decoding: words written out from R80's patterns `r a b3 b2 b1 b0` -/

theorem test_decode_reset : decodes 0b100000#6 (.reset 0) = true ∧ decodes 0b111110#6 (.reset 0b11110#5) = true := by decide
theorem test_decode_smpIssue : decodes 0b000000#6 (.smpIssue false) = true ∧ decodes 0b000100#6 (.smpIssue true) = true := by
  decide
theorem test_decode_smpWait : decodes 0b001000#6 .smpWait = true := by decide
theorem test_decode_smpLatch : decodes 0b001100#6 .smpLatch = true := by decide
theorem test_decode_pgIdle : decodes 0b010000#6 (.pgIdle false) = true ∧ decodes 0b010010#6 (.pgIdle true) = true := by decide
theorem test_decode_pgHold : decodes 0b010100#6 .pgHold = true := by decide
theorem test_decode_pgEnd : decodes 0b010110#6 .pgEnd = true := by decide
theorem test_decode_pgFire : decodes 0b011000#6 (.pgFire false) = true ∧ decodes 0b011010#6 (.pgFire true) = true := by decide
theorem test_decode_pgFireOvr : decodes 0b011100#6 (.pgFireOvr false) = true ∧ decodes 0b011110#6 (.pgFireOvr true) = true := by
  decide
/-- R82's own examples: 0x01, 0x13, 0x0A. -/
theorem test_decode_reserved : rejects 0x01 .reservedBit0 = true ∧ rejects 0x13 .reservedBit0 = true ∧
    rejects 0x0A .reservedSamplerBit1 = true := by decide

/-! ## Steps -/

/-- V-R1, V-R3. -/
theorem test_reset :
    gives (step (st 2 .high 7 2 1023 .wait true false [0x1000])) Sampler.reset PulseGen.reset = true ∧
    gives (step (st 7 .low 0 0 5 .wait false false [0x1FFF])) Sampler.reset PulseGen.reset = true := by decide
/-- V-M6: a release edge in mode 2. -/
theorem test_smpIssue : gives (step (st 2 .low 0 2 0 .issue true false [0x0000])) ⟨0, 0, false, false, .wait⟩
    ⟨3, 0, .low, false⟩ = true := by decide
/-- V-M7: `adc_done` and `adc_result` are ignored. -/
theorem test_smpIssue_ignores_adc : gives (step (st 2 .low 0 0 0 .issue false false [0x0709])) ⟨0, 0, false, false, .wait⟩
    ⟨3, 0, .low, false⟩ = true := by decide
/-- V-M11. -/
theorem test_smpIssue_mode3 : faults (step (st 2 .low 0 3 0 .issue true false [0])) .reservedMode = true := by decide
/-- V-M8: the button is ignored in WAIT. -/
theorem test_smpWait : gives (step (st 3 .low 0 0 100 .wait false false [0x0800])) ⟨100, 0, false, false, .wait⟩
    ⟨4, 0, .low, false⟩ = true := by decide
/-- V-M10. -/
theorem test_smpLatch : gives (step (st 3 .low 0 0 100 .wait false false [0x0FFF])) ⟨1023, 0, false, false, .issue⟩
    ⟨4, 0, .low, false⟩ = true := by decide
/-- V-P12. -/
theorem test_pgIdle : gives (step (st 4 .low 4 0 0 .wait false false [0])) ⟨0, 0, false, false, .wait⟩
    ⟨5, 4, .low, false⟩ = true := by decide
/-- V-P8. -/
theorem test_pgHold : gives (step (st 1 .high 4 0 512 .wait false false [0])) ⟨512, 0, false, false, .wait⟩
    ⟨2, 4, .high, false⟩ = true := by decide
/-- V-P9. -/
theorem test_pgEnd : gives (step (st 3 .high 4 0 512 .wait false false [0])) ⟨512, 0, false, false, .wait⟩
    ⟨4, 4, .low, false⟩ = true := by decide
/-- V-P6: the fire reads the `raw_sample` before a latch of the same cycle. -/
theorem test_pgFire : gives (step (st 7 .low 0 0 0 .wait false false [0x07FF])) ⟨1023, 0, false, false, .issue⟩
    ⟨0, 1, .high, false⟩ = true := by decide
/-- V-P4: a width of 0 starts no pulse. -/
theorem test_pgFire_zero : gives (step (State.mk tc0 ⟨0, 0, false, false, .wait⟩ ⟨7, 0, .low, false⟩ (cycles [0]) 0))
    ⟨0, 0, false, false, .wait⟩ ⟨0, 0, .low, false⟩ = true := by decide
/-- V-P13: the operation's result; and R171's refusal of that start state. -/
theorem test_pgFireOvr : gives (exec (.pgFireOvr true) (st 7 .high 7 0 512 .wait false false [0]))
    ⟨512, 0, false, false, .wait⟩ ⟨0, 4, .high, true⟩ = true ∧
    refuses (step (st 7 .high 7 0 512 .wait false false [0])) .illFormedState = true := by decide
/-- V-P14. -/
theorem test_pgFire_mode3 : faults (step (st 7 .low 0 3 0 .wait false false [0])) .reservedMode = true := by decide

/-- V-T4, V-T5, V-T6: how the width is rounded. -/
theorem test_width_rounding : widthRaw big 0 0 = some 175 ∧ widthRaw tc 0 0 = some (-200) ∧ widthRaw big 1 513 = some 380 ∧
    widthRaw big 0 1023 = some 584 := by decide
/-- V-T7: the clamp at TC. -/
theorem test_width_clamp : width tc 0 0 = some 1 ∧ width tc 0 522 = some 7 ∧ width tc 0 523 = some 7 ∧
    width tc 1 512 = some 4 ∧ width tc0 0 0 = some 0 := by decide
/-- P1's first words, from their text (R85). -/
theorem test_assemble_text : (match assembleText "RST\nCYC 0 ; first cycle\nDONE 0, 512\nREP 2, CYC 1".toList with
    | .ok ws => ws == [0x1000, 0x0000, 0x0600, 0x0800, 0x0800]
    | .error _ => false) = true := by decide

/-! ## Witnesses: a concrete state and operands that meet all the hypotheses of a statement, a clause at a time -/

/-- A stalled run from reset: eighteen cycles of zero inputs. -/
def idleRun : State := State.resetWith tc (cycles (List.replicate 18 0))

/-- A conversion that completes in the second cycle after its start, with 1023; the button is released in between. -/
def convert : State := st 3 .low 0 2 0 .issue true false ([0x0800, 0x0000, 0x07FF] ++ List.replicate 18 0)

/-- The last tick of a period, in WAIT. -/
def lastTick : State := st 7 .low 4 2 1023 .wait false false (List.replicate 18 0)

/-- A pulse in progress, one tick before its end. -/
def pulseEnd : State := st 6 .high 7 2 1023 .wait false false (List.replicate 18 0)

/-- A pulse in progress, two ticks before its end. -/
def pulseHold : State := st 5 .high 7 0 1023 .wait false false (List.replicate 18 0)

/-- A legal state, outside the invariant, with the line high at the last tick. -/
def overrun : State := State.mk ⟨7, 4, 1, 6⟩ ⟨512, 0, false, false, .wait⟩ ⟨6, 7, .high, false⟩ (cycles [0, 0]) 0

/-- The reserved mode, at the last tick with a release edge. -/
def mode3 : State := st 7 .low 0 3 0 .issue true false [0, 0]

/-- The reserved mode where nothing reads it. -/
def mode3Quiet : State := st 6 .low 0 3 0 .issue true false [0x0800, 0]

/-- A RESET cycle in mid-pulse. -/
def inReset : State := st 2 .high 7 2 1023 .wait true false [0x1000, 0x1FFF, 0]

/-- An ill-formed state with `tcnt` = P, and one with a high line and no width. -/
def illTick : State := st 8 .low 0 0 0 .wait false false [0]
def illLine : State := st 0 .high 0 0 0 .wait false false [0]

theorem idleRun_inv : idleRun.Inv := by constructor <;> decide
theorem convert_inv : convert.Inv := by constructor <;> decide
theorem lastTick_inv : lastTick.Inv := by constructor <;> decide
theorem pulseEnd_inv : pulseEnd.Inv := by constructor <;> decide
theorem lastTick_fires : lastTick.Fires := ⟨true, Or.inl rfl⟩

/-- A latch in the cycle of a fire. -/
def latchFire : State := st 7 .low 4 0 0 .wait false false ([0x07FF] ++ List.replicate 18 0)
theorem latchFire_inv : latchFire.Inv := by constructor <;> decide
theorem latchFire_fires : latchFire.Fires := ⟨true, Or.inl rfl⟩

/-- A release edge in the cycle of a fire. -/
def edgeFire : State := st 7 .low 4 2 1023 .issue true false [0, 0]

theorem witness_ResetGivesTheTable : inReset.cfg.WellFormed ∧ inReset.input.rst = true := by decide

theorem witness_ResetFollowsItsRule :
    inReset.cfg.WellFormed ∧ inReset.input.rst = true ∧ ∀ k, k < 1 + 1 → (inReset.inputAt k).rst = true := by decide

theorem witness_SmpIssueFollowsItsRule :
    (¬ (edgeFire.smp.prev_button_state = true ∧ edgeFire.input.button_in = false ∧ edgeFire.smp.mode = 3) ∧
      edgeFire.input.rst = false ∧ edgeFire.smp.smp_state = .issue) ∧
    (mode3.smp.prev_button_state = true ∧ mode3.input.button_in = false ∧ mode3.smp.mode = 3) ∧
    ¬ (mode3Quiet.smp.prev_button_state = true ∧ mode3Quiet.input.button_in = false ∧ mode3Quiet.smp.mode = 3) := by decide

theorem witness_SmpWaitFollowsItsRule :
    lastTick.smp.smp_state = .wait ∧ decode (selS lastTick) = .ok .smpWait ∧ ∃ t, step lastTick = .next t :=
  ⟨rfl, rfl, _, rfl⟩

theorem witness_SmpLatchFollowsItsRule :
    decode (selS latchFire) = .ok .smpLatch ∧ latchFire.Fires ∧ ∃ t, step latchFire = .next t :=
  ⟨rfl, latchFire_fires, _, rfl⟩

theorem witness_PgIdleFollowsItsRule :
    decode (selP idleRun) = .ok (.pgIdle true) ∧ idleRun.Inv ∧ idleRun.pg.pwm_q = .low ∧ idleRun.NoReset 7 ∧
    idleRun.pg.tcnt + 7 ≤ idleRun.cfg.PERIOD_TICKS - 1 := ⟨rfl, idleRun_inv, rfl, by unfold State.NoReset; decide, by decide⟩

theorem witness_PgHoldFollowsItsRule : decode (selP pulseHold) = .ok .pgHold ∧ ∃ t, step pulseHold = .next t :=
  ⟨rfl, _, rfl⟩

theorem witness_PgEndFollowsItsRule : pulseEnd.Legal ∧ decode (selP pulseEnd) = .ok .pgEnd := ⟨by decide, rfl⟩

theorem witness_PgFireFollowsItsRule :
    lastTick.smp.mode ≠ 3 ∧ mode3.smp.mode = 3 ∧
    ∃ s t : State, exec (.pgFire true) s = .next t ∧ t.pg.pulse_width = 0 ∧ s.cfg.MIN_PULSE ≤ s.cfg.MAX_PULSE :=
  ⟨by decide, rfl, State.mk tc0 ⟨0, 0, false, false, .wait⟩ ⟨7, 0, .low, false⟩ [] 0, _, rfl, by decide, by decide⟩

theorem witness_PgFireOvrFollowsItsRule :
    overrun.smp.mode ≠ 3 ∧ decode (selP overrun) = .ok (.pgFireOvr true) ∧ overrun.Legal ∧ mode3.smp.mode = 3 ∧
    pulseEnd.Inv := ⟨by decide, rfl, by decide, rfl, pulseEnd_inv⟩

theorem witness_ReleaseEdgeAndModeAdvance : (2 : ModeBits) ≠ 3 := by decide

theorem witness_RawWidthIsTheExactExpressionTruncated :
    (((0 : ModeBits) = 0 ∧ (250366 / 100000 : ℚ) = 250366 / 100000) ∧
      0 ≤ (big.BASE : ℚ) + (((0 : Sample).toNat : ℚ) - 512) / (250366 / 100000) ∧ 205 ≤ big.BASE) ∧
    ¬ 0 ≤ (tc.BASE : ℚ) + (((0 : Sample).toNat : ℚ) - 512) / (250366 / 100000) := by
  refine ⟨⟨⟨rfl, rfl⟩, ?_, by decide⟩, ?_⟩ <;> norm_num [big, tc]

theorem witness_QuotientKeepsAwayFromIntegers :
    divisor 0 = some ⟨125183, 50000⟩ ∧ divisor 1 = some ⟨500733, 100000⟩ ∧ divisor 2 = some ⟨7511, 500⟩ ∧
    (511 : Sample) ≠ 512 ∧ (1023 : Sample) ≠ 512 := by decide

theorem witness_WidthIsTheClampedRawWidth :
    (2 : ModeBits) ≠ 3 ∧ tc.MIN_PULSE ≤ tc.MAX_PULSE ∧ widthRaw tc 0 520 = some 7 ∧ (tc.MIN_PULSE : ℤ) ≤ 7 ∧
    (7 : ℤ) ≤ (tc.MAX_PULSE : ℤ) := by decide

theorem witness_RawWidthTable : big.BASE = 380 := rfl

theorem witness_WidthIsMonotoneAndCentred :
    (0 : Sample).toNat ≤ (1023 : Sample).toNat ∧ width tc 0 0 = some 1 ∧ width tc 0 1023 = some 7 ∧ tc.WellFormed ∧
    (2 : ModeBits) ≠ 3 := by decide

theorem witness_SensitivityOrdering :
    big.BASE = 380 ∧ 1022 ≤ 1022 ∧
    widthRaw big 0 (BitVec.ofNat 10 1022) = some 583 ∧ widthRaw big 0 (BitVec.ofNat 10 (1022 + 1)) = some 584 ∧
    widthRaw big 1 (BitVec.ofNat 10 1022) = some 481 ∧ widthRaw big 1 (BitVec.ofNat 10 (1022 + 1)) = some 482 ∧
    widthRaw big 2 (BitVec.ofNat 10 1022) = some 413 ∧ widthRaw big 2 (BitVec.ofNat 10 (1022 + 1)) = some 414 := by decide

theorem witness_ConfigurationAndTickWidth :
    ¬ (State.resetWith ⟨8, 4, 1, 8⟩ []).cfg.WellFormed ∧ tc.PERIOD_TICKS ≤ 2 ^ 3 ∧ pulseEnd.Inv :=
  ⟨by decide, by decide, pulseEnd_inv⟩

theorem witness_SelectorPicksOneOperationPerAgent : inReset.input.rst = true ∧ lastTick.input.rst = false := by decide

theorem witness_DecodeEncodeAgree :
    (Instr.reset 0b11110#5).wellFormed = true ∧ decode 0b111110#6 = .ok (.reset 0b11110#5) ∧
    (Instr.reset 0b11111#5).wellFormed = false := ⟨by decide, rfl, by decide⟩

theorem witness_InputAndOutputWords :
    (Input.ofWord 0x1FFF).rst = (Input.ofWord 0x1000).rst ∧ (Input.ofWord 0x1FFF).rst = true ∧
    edgeFire.smp.smp_state = .issue ∧ (Input.ofWord 0x0FFF).button_in = (Input.ofWord 0x0800).button_in ∧
    lastTick.smp.smp_state = .wait ∧ (Input.ofWord 0x0BFF).adc_done = (Input.ofWord 0).adc_done ∧
    (Input.ofWord 0x0FFF).adc_done = (Input.ofWord 0x07FF).adc_done ∧
    (Input.ofWord 0x0FFF).adc_result = (Input.ofWord 0x07FF).adc_result := by decide

theorem witness_TraceStatementsAndWords : 1 ≤ 1 ∧ 1023 ≤ 1023 ∧ 1 < 2 ∧ 1023 < 1024 ∧ '\n' ∉ "CYC 1".toList := by decide

theorem witness_PseudoStatementsExpand :
    1 ≤ 3 ∧ (Stmt.rep 2 (.done 1 1023)).wellFormed = true ∧ edgeFire.smp.smp_state = .issue := by decide

theorem witness_AssemblerAcceptsWellFormed :
    (∀ x ∈ ([.rst, .done 1 1023] : List Stmt), x.wellFormed = true) ∧
    ∃ x y, assemble [.rst] = .ok x ∧ assemble [.cyc 1, .release] = .ok y := ⟨by decide, _, _, rfl, rfl⟩

theorem witness_TraceResult :
    (∃ t, (runTrace tc State.reset [0x1000, 0x0FFF]).2 = .next t) ∧
    ([0x1000, 0x0FFF] : List InputWord)[1]? = some 0x0FFF := ⟨⟨_, rfl⟩, rfl⟩

theorem witness_StepRunsTheDecodedOperations :
    (lastTick.cfg.WellFormed ∧ lastTick.Legal ∧ decode (selS lastTick) = .ok .smpWait ∧
      decode (selP lastTick) = .ok (.pgFire true) ∧ (∃ a, exec .smpWait lastTick = .next a) ∧
      ∃ b, exec (.pgFire true) lastTick = .next b) ∧
    (inReset.cfg.WellFormed ∧ inReset.input.rst = true ∧ decode (selS inReset) = .ok (.reset 8) ∧
      decode (selP inReset) = .ok (.reset 20) ∧ ∃ a, exec (.reset 8) inReset = .next a) ∧
    (mode3.cfg.WellFormed ∧ mode3.Legal ∧ decode (selS mode3) = .ok (.smpIssue false) ∧
      decode (selP mode3) = .ok (.pgFire true) ∧ exec (.smpIssue false) mode3 = .fault .reservedMode) ∧
    ∃ s : State, s.cfg.WellFormed ∧ s.Legal ∧ decode (selS s) = .ok .smpWait ∧ decode (selP s) = .ok (.pgFire true) ∧
      (∃ a, exec .smpWait s = .next a) ∧ exec (.pgFire true) s = .fault .reservedMode :=
  ⟨⟨by decide, by decide, rfl, rfl, ⟨_, rfl⟩, _, rfl⟩, ⟨by decide, by decide, rfl, rfl, _, rfl⟩,
    ⟨by decide, by decide, rfl, rfl, rfl⟩,
    st 7 .low 0 3 0 .wait false false [0], by decide, by decide, rfl, rfl, ⟨_, rfl⟩, rfl⟩

theorem witness_AgentsAreOrderIndependent :
    latchFire.input.rst = false ∧ decode (selS latchFire) = .ok .smpLatch ∧ decode (selP latchFire) = .ok (.pgFire true) ∧
    (∃ a, exec .smpLatch latchFire = .next a) ∧ (∃ b, exec (.pgFire true) latchFire = .next b) ∧
    latchFire.cfg.WellFormed ∧ latchFire.Legal :=
  ⟨by decide, rfl, rfl, ⟨_, rfl⟩, ⟨_, rfl⟩, by decide, by decide⟩

theorem witness_OutputsFollowStateAndReset :
    edgeFire.output.adc_start = true ∧ (∃ t, step edgeFire = .next t) ∧
    ∃ s s' : State, s ≠ s' ∧ s.smp = s'.smp ∧ s.pg = s'.pg ∧ s.input.rst = s'.input.rst :=
  ⟨by decide, ⟨_, rfl⟩, st 0 .low 0 0 0 .issue false false [0x0800], st 0 .low 0 0 0 .issue false false [0x0400],
    by decide, by decide, by decide, by decide⟩

theorem witness_TickCounterRule :
    (lastTick.input.rst = false ∧ lastTick.pg.tcnt = lastTick.cfg.PERIOD_TICKS - 1 ∧ ∃ t, step lastTick = .next t) ∧
    (pulseEnd.input.rst = false ∧ pulseEnd.pg.tcnt + 1 = pulseEnd.cfg.PERIOD_TICKS - 1 ∧ ∃ t, step pulseEnd = .next t) :=
  ⟨⟨by decide, by decide, _, rfl⟩, by decide, by decide, _, rfl⟩

theorem witness_RawSampleRule :
    (inReset.input.rst = true ∧ ∃ t, step inReset = .next t) ∧
    (latchFire.input.adc_done = true ∧ latchFire.smp.smp_state = .wait ∧ ∃ t, step latchFire = .next t) ∧
    ∃ t, step lastTick = .next t := ⟨⟨by decide, _, rfl⟩, ⟨by decide, by decide, _, rfl⟩, _, rfl⟩

theorem witness_ModeRule :
    edgeFire.input.rst = false ∧ edgeFire.smp.mode ≠ 3 ∧ ∃ t, step edgeFire = .next t ∧ t.smp.mode ≠ edgeFire.smp.mode :=
  ⟨by decide, by decide, _, rfl, by decide⟩

theorem witness_ButtonRegistersAndPhaseRule :
    (∃ t, run 9 idleRun = .next t) ∧
    (edgeFire.input.rst = false ∧ edgeFire.smp.smp_state = .issue ∧ ∃ t, step edgeFire = .next t) ∧
    (lastTick.input.rst = false ∧ lastTick.smp.smp_state = .wait ∧ ∃ t, step lastTick = .next t) :=
  ⟨⟨_, rfl⟩, ⟨by decide, rfl, _, rfl⟩, by decide, rfl, _, rfl⟩

theorem witness_PulseRegistersRule :
    (lastTick.input.rst = false ∧ lastTick.pg.tcnt = lastTick.cfg.PERIOD_TICKS - 1 ∧ ∃ t, step lastTick = .next t) ∧
    (pulseEnd.input.rst = false ∧ pulseEnd.pg.tcnt ≠ pulseEnd.cfg.PERIOD_TICKS - 1 ∧ ∃ t, step pulseEnd = .next t) :=
  ⟨⟨by decide, by decide, _, rfl⟩, by decide, by decide, _, rfl⟩

theorem witness_OverrunFlagRule :
    (overrun.input.rst = false ∧ ∃ t, step overrun = .next t ∧ t.pg.ovr = true) ∧
    (inReset.input.rst = true ∧ ∃ t, step inReset = .next t) ∧ lastTick.Inv ∧ ∃ t, run 9 lastTick = .next t :=
  ⟨⟨by decide, _, rfl, by decide⟩, ⟨by decide, _, rfl⟩, lastTick_inv, _, rfl⟩

theorem witness_ParametersNeverChange : ∃ t, run 9 idleRun = .next t := ⟨_, rfl⟩

theorem witness_SamplerOperationsFrame :
    (∃ t, exec (.smpIssue false) edgeFire = .next t) ∧ (∃ t, exec .smpWait lastTick = .next t) ∧
    (∃ t, exec .smpLatch latchFire = .next t) ∧ ∃ t, exec (.reset 8) inReset = .next t :=
  ⟨⟨_, rfl⟩, ⟨_, rfl⟩, ⟨_, rfl⟩, _, rfl⟩

theorem witness_PulseGeneratorOperationsFrame :
    (∃ t, exec (.pgIdle true) idleRun = .next t) ∧ (∃ t, exec .pgHold pulseHold = .next t) ∧
    (∃ t, exec .pgEnd pulseEnd = .next t) ∧ (∃ t, exec (.pgFire true) lastTick = .next t) ∧
    ∃ t, exec (.pgFireOvr true) overrun = .next t := ⟨⟨_, rfl⟩, ⟨_, rfl⟩, ⟨_, rfl⟩, ⟨_, rfl⟩, _, rfl⟩

theorem witness_SimultaneousEvents :
    (inReset.input.rst = true ∧ ∃ t, step inReset = .next t) ∧
    (latchFire.Fires ∧ (∃ t, step latchFire = .next t) ∧ latchFire.smp.smp_state = .wait ∧
      latchFire.input.adc_done = true) ∧
    (edgeFire.Fires ∧ (∃ t, step edgeFire = .next t) ∧ edgeFire.smp.smp_state = .issue ∧
      edgeFire.smp.prev_button_state = true ∧ edgeFire.input.button_in = false) :=
  ⟨⟨by decide, _, rfl⟩, ⟨latchFire_fires, ⟨_, rfl⟩, rfl, by decide⟩,
    ⟨true, Or.inl rfl⟩, ⟨_, rfl⟩, rfl, rfl, by decide⟩

theorem witness_ReservedModeFaults :
    (mode3.cfg.WellFormed ∧ mode3.Legal ∧ mode3.input.rst = false ∧ mode3.smp.mode = 3 ∧
      mode3.pg.tcnt = mode3.cfg.PERIOD_TICKS - 1) ∧
    (mode3Quiet.cfg.WellFormed ∧ mode3Quiet.Legal ∧ mode3Quiet.input.rst = false ∧ mode3Quiet.smp.mode = 3 ∧
      ¬ (mode3Quiet.pg.tcnt = mode3Quiet.cfg.PERIOD_TICKS - 1 ∨ (mode3Quiet.smp.smp_state = .issue ∧
        mode3Quiet.smp.prev_button_state = true ∧ mode3Quiet.input.button_in = false))) ∧
    (illTick.cfg.WellFormed ∧ illTick.input.rst = false ∧ illTick.cfg.PERIOD_TICKS - 1 < illTick.pg.tcnt) ∧
    (illLine.cfg.WellFormed ∧ illLine.input.rst = false ∧ illLine.pg.pwm_q = .high ∧ illLine.pg.pulse_width = 0) := by decide

theorem witness_StopsAreTheClosedList :
    (illTick.cfg.WellFormed ∧ illTick.input.rst = false ∧ ¬ illTick.Legal) ∧ step mode3 = .fault .reservedMode ∧
    run 1 mode3 = .fault .reservedMode ∧ run 1 illTick = .refused .illFormedState ∧ ∃ t, step lastTick = .next t :=
  ⟨by decide, rfl, rfl, rfl, _, rfl⟩

theorem witness_InvariantHoldsAfterReset :
    tc.WellFormed ∧ inReset.input.rst = true ∧ ∃ t, step inReset = .next t := ⟨by decide, by decide, _, rfl⟩

theorem witness_EveryStepKeepsTheInvariant :
    lastTick.Inv ∧ (∃ t, step lastTick = .next t) ∧ tc.WellFormed ∧ ∃ t, run 9 idleRun = .next t :=
  ⟨lastTick_inv, ⟨_, rfl⟩, by decide, _, rfl⟩

theorem witness_InvariantStatesNeverStop : lastTick.Inv ∧ ∃ t, run 9 lastTick = .next t := ⟨lastTick_inv, _, rfl⟩

theorem witness_OverrunNeverHappens :
    pulseEnd.Inv ∧ ∃ t, run 1 pulseEnd = .next t ∧ t.pg.tcnt = pulseEnd.cfg.PERIOD_TICKS - 1 :=
  ⟨pulseEnd_inv, _, rfl, by decide⟩

theorem witness_OneFirePerPeriod :
    pulseEnd.Inv ∧ pulseEnd.NoReset pulseEnd.cfg.PERIOD_TICKS ∧ tc.WellFormed ∧ idleRun.NoReset tc.PERIOD_TICKS ∧
    ∃ t, run 7 idleRun = .next t ∧ t.Fires :=
  ⟨pulseEnd_inv, by unfold State.NoReset; decide, by decide, by unfold State.NoReset; decide, _, rfl, true, Or.inl rfl⟩

theorem witness_FirstCyclesAfterReset : tc.WellFormed ∧ idleRun.NoReset tc.PERIOD_TICKS :=
  ⟨by decide, by unfold State.NoReset; decide⟩

theorem witness_FirstPulseAfterReset :
    tc.WellFormed ∧ idleRun.NoReset tc.PERIOD_TICKS ∧ idleRun.NoReset (tc.PERIOD_TICKS + tc.MAX_PULSE) :=
  ⟨by decide, by unfold State.NoReset; decide, by unfold State.NoReset; decide⟩

theorem witness_PulseShape :
    lastTick.Inv ∧ lastTick.NoReset (lastTick.cfg.PERIOD_TICKS + 1) ∧ lastTick.Fires ∧
    width lastTick.cfg lastTick.smp.mode lastTick.smp.raw_sample = some 7 :=
  ⟨lastTick_inv, by unfold State.NoReset; decide, lastTick_fires, by decide⟩

theorem witness_FireSeesTheLastCompletedUpdates :
    ∃ t u, run 7 (State.resetWith tc (cycles [0, 0x07FF, 0, 0, 0, 0, 0, 0])) = .next t ∧ t.Fires ∧ step t = .next u :=
  ⟨_, _, rfl, ⟨true, Or.inl rfl⟩, rfl⟩

theorem convert_answers : convert.AdcAnswers 2 1023 :=
  ⟨by decide, by intro j h1 h2; interval_cases j; decide, by decide, by decide⟩

theorem witness_IterationTiming :
    convert.Inv ∧ convert.smp.smp_state = .issue ∧ convert.NoReset (2 + 1) ∧ convert.AdcAnswers 2 1023 :=
  ⟨convert_inv, rfl, by unfold State.NoReset; decide, convert_answers⟩

theorem witness_StallFreezesTheSampler :
    pulseEnd.Inv ∧ pulseEnd.smp.smp_state = .wait ∧ pulseEnd.NoReset 10 ∧ pulseEnd.AdcSilent 10 :=
  ⟨pulseEnd_inv, rfl, by unfold State.NoReset; decide, by unfold State.AdcSilent; decide⟩

/-- Two iterations, of two cycles and of four: a press, then a release. -/
def pressRelease : List Iteration :=
  [⟨Input.ofWord 0x0800, [], Input.ofWord 0x0400⟩, ⟨Input.ofWord 0, [Input.ofWord 0x0800, Input.ofWord 0], Input.ofWord 0x07FF⟩]

theorem witness_EachSampledReleaseAdvancesTheMode :
    ∃ s : State, s.Inv ∧ s.smp.smp_state = .issue ∧ (∀ it ∈ pressRelease, it.Complete) ∧
      s.inputs = iterationInputs pressRelease ++ [] ∧ pressRelease.map (·.first.button_in) = [true, false] :=
  ⟨State.resetWith tc (iterationInputs pressRelease ++ []), by constructor <;> decide, rfl,
    by unfold Iteration.Complete; decide, rfl, by decide⟩

theorem witness_CleanButtonAdvancesOncePerRelease :
    convert.Inv ∧ convert.smp.smp_state = .issue ∧ convert.NoReset (2 + 2) ∧ convert.AdcAnswers 2 1023 ∧
    convert.buttonChanges (2 + 1) ≤ 1 ∧ convert.buttonReleases (2 + 1) = 1 ∧
    ∃ t u, run (2 + 1) convert = .next t ∧ step t = .next u :=
  ⟨convert_inv, rfl, by unfold State.NoReset; decide, convert_answers, by decide, by decide, _, _, rfl, rfl⟩

theorem witness_ChangeReachesTheLine :
    (latchFire.Inv ∧ latchFire.NoReset (latchFire.cfg.PERIOD_TICKS + 2) ∧ decode (selS latchFire) = .ok .smpLatch ∧
      ∀ e, e < 9 → 1 ≤ e → (latchFire.inputAt e).adc_done = false) ∧
    (idleRun.Inv ∧ idleRun.NoReset (idleRun.cfg.PERIOD_TICKS + 2) ∧ decode (selS idleRun) = .ok (.smpIssue false) ∧
      idleRun.input.adc_done = false ∧ (∃ v, run 1 idleRun = .next v) ∧
      ∀ e, e < 9 → 1 ≤ e → (idleRun.inputAt e).adc_done = false) :=
  ⟨⟨latchFire_inv, by unfold State.NoReset; decide, rfl, by decide⟩,
    idleRun_inv, by unfold State.NoReset; decide, rfl, by decide, ⟨_, rfl⟩, by decide⟩

theorem witness_LiveAdcCompletesTheConversion :
    convert.Inv ∧ convert.smp.smp_state = .issue ∧ convert.NoReset (2 + 1) ∧ convert.AdcLive 2 :=
  ⟨convert_inv, rfl, by unfold State.NoReset; decide, 2, by decide, by decide, by decide⟩

theorem witness_DataFlowsOneWay :
    (∃ s s' t t' : State, s ≠ s' ∧ s.smp = s'.smp ∧ s.inputs = s'.inputs ∧ s.drawn = s'.drawn ∧
      run 3 s = .next t ∧ run 3 s' = .next t') ∧
    ∃ s s' t t' : State, s ≠ s' ∧ s.cfg = s'.cfg ∧ s.pg = s'.pg ∧ s.input.rst = s'.input.rst ∧
      s.smp.raw_sample = s'.smp.raw_sample ∧ s.smp.mode = s'.smp.mode ∧ step s = .next t ∧ step s' = .next t' :=
  ⟨⟨st 7 .low 0 0 0 .issue false false [0, 0, 0], st 1 .high 4 0 0 .issue false false [0, 0, 0], _, _, by decide, rfl, rfl,
      rfl, rfl, rfl⟩,
    st 7 .low 0 0 0 .issue false false [0], st 7 .low 0 0 0 .wait true false [0x0400], _, _, by decide, rfl, rfl, by decide,
      rfl, rfl, rfl, rfl⟩

theorem witness_ObservableOnlyRegisters : ∃ t, run 9 lastTick = .next t := ⟨_, rfl⟩

/-- A Pulse Generator selector, a Sampler selector, RESET's placed in an ill-formed state, and a fire placed in mode 3. -/
theorem witness_PlacedSelectorIsPerformed :
    (State.reset.cfg.WellFormed ∧ State.reset.cfg.PERIOD_TICKS + 1 < 2 ^ nTick State.reset.cfg ∧ State.reset.Legal ∧
      State.reset.smp.mode ≠ 3) ∧
    (decode 0b011010#6 = .ok (.pgFire true) ∧ (0b011010#6).getLsbD 4 = true) ∧
    (decode 0b001100#6 = .ok .smpLatch ∧ (0b001100#6).getLsbD 4 = false ∧ (0b001100#6).getLsbD 1 = false) ∧
    (decode 0b100000#6 = .ok (.reset 0) ∧ (0b100000#6).getLsbD 5 = true ∧ (0b100000#6).getLsbD 4 = false ∧
      (0b100000#6).getLsbD 1 = false) ∧
    ∃ s : State, s.cfg.WellFormed ∧ s.cfg.PERIOD_TICKS + 1 < 2 ^ nTick s.cfg ∧
      exec (.pgFire true) (s.withFetchWord 6 0b011010) = .fault .reservedMode :=
  ⟨by decide, ⟨rfl, rfl⟩, ⟨rfl, rfl, rfl⟩, ⟨rfl, rfl, rfl, rfl⟩,
    { State.reset with smp := ⟨0, 3, false, false, .issue⟩ }, by decide, by decide, rfl⟩

end Sys2Proof.Tests
end

section
/-! SUPPORT. The proofs of the statements about the block as a whole (spec/00_scope.md): what a configuration fixes, how one
cycle joins the two agents, and which values cross between them. -/

namespace Sys2Proof.Machine

/-! The tick registers stay below P, which N_TICK bits hold (R8, R74). -/

theorem State.Inv.tcnt_lt_period {s : State} (h : s.Inv) : s.pg.tcnt < s.cfg.PERIOD_TICKS := by
  obtain ⟨hp, -, -, -⟩ := h.config
  have := h.tcnt_range
  omega

theorem State.Inv.pulse_width_lt_period {s : State} (h : s.Inv) : s.pg.pulse_width < s.cfg.PERIOD_TICKS := by
  obtain ⟨hp, -, -, hmax⟩ := h.config
  have := h.width_range
  omega

/-- Settles O18: N_TICK by `nTick_le_iff`, and both tick registers by their bound below P. -/
theorem configurationAndTickWidth : Obligations.ConfigurationAndTickWidth := by
  refine ⟨fun c => ?_, fun c => ⟨period_le_two_pow_nTick c, fun n => (nTick_le_iff c n).mpr⟩,
    fun s => step_of_illFormedConfig, fun _ _ _ => rfl, fun s h => ?_⟩
  · unfold Config.WellFormed
    omega
  · have hp := period_le_two_pow_nTick s.cfg
    exact ⟨h.tcnt_lt_period.trans_le hp, h.pulse_width_lt_period.trans_le hp⟩

/-- Settles O37: every step keeps the configuration, so every run does. -/
theorem parametersNeverChange : Obligations.ParametersNeverChange :=
  fun _ _ _ => cfg_of_run

/-! One cycle as the join of the two decoded operations (R13). -/

theorem refusalOf_eq_none {s : State} (hc : s.cfg.WellFormed) (hl : s.input.rst = true ∨ s.Legal) :
    refusalOf s = none := by
  have hstate : ¬ (s.input.rst = false ∧ ¬ s.Legal) := by
    rintro ⟨hr, hn⟩
    rcases hl with hr' | hl
    · simp [hr] at hr'
    · exact hn hl
  rw [refusalOf, if_neg (not_not.mpr hc), if_neg hstate]

/-- A cycle that nothing refuses joins the two decoded operations, both from the pre-edge state. -/
theorem step_eq_joinAgents {s : State} {i j : Instr} (hc : s.cfg.WellFormed) (hl : s.input.rst = true ∨ s.Legal)
    (hi : decode (selS s) = .ok i) (hj : decode (selP s) = .ok j) :
    step s = joinAgents s (exec i s) (exec j s) := by
  simp only [step, runCycle, refusalOf_eq_none hc hl, runAgents, hi, hj]

/-- Settles O28: the step is the join of the two operations, case by case of their outcomes. -/
theorem stepRunsTheDecodedOperations : Obligations.StepRunsTheDecodedOperations := by
  intro s i j hc hl hi hj
  rw [step_eq_joinAgents hc hl hi hj]
  refine ⟨fun a b ha hb => ?_, fun r hr => ?_, fun r a ha hr => ?_⟩
  · rw [ha, hb]; rfl
  · rw [hr]; rfl
  · rw [ha, hr]; rfl

/-! What each agent's operation reads (R3). -/

theorem State.input_congr {s s' : State} (hi : s.inputs = s'.inputs) (hd : s.drawn = s'.drawn) : s.input = s'.input :=
  State.inputAt_congr hi hd 0

/-- The Sampler's operation is selected from the Sampler's registers and the inputs alone. -/
theorem samplerOp_congr {s s' : State} (hs : s.smp = s'.smp) (hi : s.input = s'.input) : samplerOp s = samplerOp s' := by
  simp only [samplerOp, hs, hi]

/-- The Sampler's next registers depend on the Sampler's registers and the inputs alone. -/
theorem samplerNext_congr {s s' : State} (hs : s.smp = s'.smp) (hi : s.input = s'.input) :
    samplerNext s = samplerNext s' := by
  simp only [samplerNext, modeAfterSample, hs, hi]

/-- The Pulse Generator's next registers depend on the Sampler through `raw_sample` and `mode` alone. -/
theorem pulseNext_congr {s s' : State} (hc : s.cfg = s'.cfg) (hp : s.pg = s'.pg)
    (hraw : s.smp.raw_sample = s'.smp.raw_sample) (hmode : s.smp.mode = s'.smp.mode) : pulseNext s = pulseNext s' := by
  simp only [pulseNext, hc, hp, hraw, hmode]

/-- Outside RESET the Sampler's operation writes the Sampler's registers and nothing else. -/
theorem exec_samplerOp_eq_next {s a : State} (h : s.input.rst = false) :
    exec (samplerOp s) s = .next a ↔ ∃ x, samplerNext s = some x ∧ a = { s with smp := x } := by
  rw [exec_samplerOp h]
  cases samplerNext s <;> simp [eq_comm]

/-- Outside RESET the Pulse Generator's operation writes the Pulse Generator's registers and nothing else. -/
theorem exec_pulseOp_eq_next {s b : State} (h : s.input.rst = false) :
    exec (pulseOp s) s = .next b ↔ ∃ y, pulseNext s = some y ∧ b = { s with pg := y } := by
  rw [exec_pulseOp h]
  cases pulseNext s <;> simp [eq_comm]

/-- Settles O29: each result is the pre-edge state with one agent's registers replaced, and the Sampler's operation reads
nothing of the Pulse Generator's. -/
theorem agentsAreOrderIndependent : Obligations.AgentsAreOrderIndependent := by
  intro s a b i j hr hi hj ha hb
  obtain rfl : samplerOp s = i := Except.ok.inj ((decode_selS s).symm.trans hi)
  obtain rfl : pulseOp s = j := Except.ok.inj ((decode_selP s).symm.trans hj)
  obtain ⟨x, hx, hax⟩ := (exec_samplerOp_eq_next hr).mp ha
  obtain ⟨y, -, hby⟩ := (exec_pulseOp_eq_next hr).mp hb
  have hstep (hc : s.cfg.WellFormed) (hl : s.Legal) := (stepRunsTheDecodedOperations s _ _ hc (.inr hl) hi hj).1 a b ha hb
  subst hax hby
  refine ⟨rfl, ?_, fun hc hl => ⟨hstep hc hl, hstep hc hl⟩⟩
  have hinput : s.input = { s with pg := y }.input := State.input_congr rfl rfl
  rw [samplerOp_congr rfl hinput]
  exact (exec_samplerOp_eq_next (hinput ▸ hr)).mpr ⟨x, samplerNext_congr rfl hinput ▸ hx, rfl⟩

/-! A step's registers as a function of what it reads, RESET cycles included. -/

theorem smp_of_step {s t : State} (h : step s = .next t) :
    some t.smp = if s.input.rst then some Sampler.reset else samplerNext s := by
  obtain ⟨-, ⟨hr, rfl⟩ | ⟨hr, -, a, b, ha, -, rfl⟩⟩ := step_eq_next h
  · simp [hr]
  · simp [hr, ha]

theorem pg_of_step {s t : State} (h : step s = .next t) :
    some t.pg = if s.input.rst then some PulseGen.reset else pulseNext s := by
  obtain ⟨-, ⟨hr, rfl⟩ | ⟨hr, -, a, b, -, hb, rfl⟩⟩ := step_eq_next h
  · simp [hr]
  · simp [hr, hb]

theorem inputs_of_step {s t : State} (h : step s = .next t) : t.inputs = s.inputs.tail := by
  obtain ⟨-, ⟨-, rfl⟩ | ⟨-, -, a, b, -, -, rfl⟩⟩ := step_eq_next h <;> rfl

theorem drawn_of_step {s t : State} (h : step s = .next t) : t.drawn = s.drawn + 1 := by
  obtain ⟨-, ⟨-, rfl⟩ | ⟨-, -, a, b, -, -, rfl⟩⟩ := step_eq_next h <;> rfl

/-- Two states that the Sampler cannot tell apart: the same Sampler registers, and the same inputs ahead. -/
structure State.SamplerEq (s s' : State) : Prop where
  smp : s.smp = s'.smp
  inputs : s.inputs = s'.inputs
  drawn : s.drawn = s'.drawn

theorem State.SamplerEq.step {s s' t t' : State} (h : s.SamplerEq s') (ht : step s = .next t) (ht' : step s' = .next t') :
    t.SamplerEq t' := by
  have hinput := State.input_congr h.inputs h.drawn
  have hsmp : some t.smp = some t'.smp := by
    rw [smp_of_step ht, smp_of_step ht', samplerNext_congr h.smp hinput, hinput]
  exact ⟨Option.some.inj hsmp, by rw [inputs_of_step ht, inputs_of_step ht', h.inputs],
    by rw [drawn_of_step ht, drawn_of_step ht', h.drawn]⟩

theorem State.SamplerEq.run {n : Nat} {s s' t t' : State} (h : s.SamplerEq s') (ht : run n s = .next t)
    (ht' : run n s' = .next t') : t.SamplerEq t' := by
  induction n generalizing s s' with
  | zero => cases ht; cases ht'; exact h
  | succ n ih =>
    obtain ⟨u, hu, ht⟩ := run_succ_eq_next.mp ht
    obtain ⟨u', hu', ht'⟩ := run_succ_eq_next.mp ht'
    exact ih (h.step hu hu') ht ht'

/-- Settles O58: what the Sampler cannot tell apart it cannot tell apart after any run; one step of the Pulse Generator reads
`raw_sample` and `mode` only. -/
theorem dataFlowsOneWay : Obligations.DataFlowsOneWay := by
  refine ⟨fun n s s' t t' hs hi hd ht ht' => (State.SamplerEq.run ⟨hs, hi, hd⟩ ht ht').smp, ?_⟩
  intro s s' t t' hc hp hr hraw hmode ht ht'
  apply Option.some.inj
  rw [pg_of_step ht, pg_of_step ht', hr, pulseNext_congr hc hp hraw hmode]

end Sys2Proof.Machine
end

section
/-! SUPPORT. The proofs of the statements about the state (spec/10_state.md): what one cycle writes to each register, the
invariant of R38, and the registers that nothing else reads. -/

namespace Sys2Proof.Machine

/-! What one cycle does to each agent's registers, one case per operation of R79 and one for RESET. -/

theorem modeAfterSample_cases {s : State} {m : ModeBits} (h : modeAfterSample s = some m) :
    (s.smp.prev_button_state = true ∧ s.input.button_in = false ∧ nextMode s.smp.mode = some m) ∨ m = s.smp.mode := by
  unfold modeAfterSample at h
  split at h
  · rename_i hedge
    obtain ⟨hprev, hbutton⟩ := releaseEdge_eq_true.mp hedge
    exact .inl ⟨hprev, hbutton, h⟩
  · exact .inr (Option.some.inj h).symm

/-- The Sampler's registers after a cycle: RESET, SMP_ISSUE, SMP_LATCH, SMP_WAIT. -/
theorem smp_cases_of_step {s t : State} (h : step s = .next t) :
    (s.input.rst = true ∧ t.smp = Sampler.reset) ∨
    (s.input.rst = false ∧ s.smp.smp_state = .issue ∧ ∃ m, modeAfterSample s = some m ∧ t.smp =
      ⟨s.smp.raw_sample, m, s.input.button_in, s.input.button_in, .wait⟩) ∨
    (s.input.rst = false ∧ s.smp.smp_state = .wait ∧ s.input.adc_done = true ∧
      t.smp = { s.smp with raw_sample := s.input.adc_result, smp_state := .issue }) ∨
    (s.input.rst = false ∧ s.smp.smp_state = .wait ∧ s.input.adc_done = false ∧ t.smp = s.smp) := by
  have hsmp := smp_of_step h
  rcases hr : s.input.rst with _ | _
  · rw [hr, if_neg Bool.false_ne_true] at hsmp
    rcases hp : s.smp.smp_state with _ | _
    · simp only [samplerNext, hp] at hsmp
      obtain ⟨m, hm, ht⟩ := Option.map_eq_some_iff.mp hsmp.symm
      exact .inr (.inl ⟨rfl, rfl, m, hm, ht.symm⟩)
    · simp only [samplerNext, hp, Option.some.injEq] at hsmp
      rcases hd : s.input.adc_done with _ | _
      · exact .inr (.inr (.inr ⟨rfl, rfl, rfl, by simpa [hd] using hsmp⟩))
      · exact .inr (.inr (.inl ⟨rfl, rfl, rfl, by simpa [hd] using hsmp⟩))
  · rw [hr, if_pos rfl] at hsmp
    exact .inl ⟨rfl, Option.some.inj hsmp⟩

/-- The Pulse Generator's registers after a cycle: RESET, a fire, a cycle that counts. -/
theorem pg_cases_of_step {s t : State} (h : step s = .next t) :
    (s.input.rst = true ∧ t.pg = PulseGen.reset) ∨
    (s.input.rst = false ∧ s.pg.tcnt = s.cfg.PERIOD_TICKS - 1 ∧
      ∃ w, width s.cfg s.smp.mode s.smp.raw_sample = some w ∧
        t.pg = ⟨0, w, if 0 < w then .high else .low, s.pg.ovr || s.pg.pwm_q.bit⟩) ∨
    (s.input.rst = false ∧ s.pg.tcnt ≠ s.cfg.PERIOD_TICKS - 1 ∧ t.pg =
      ⟨s.pg.tcnt + 1, s.pg.pulse_width,
        if s.pg.pwm_q = .high ∧ s.pg.tcnt + 1 < s.pg.pulse_width then .high else .low, s.pg.ovr⟩) := by
  have hpg := pg_of_step h
  rcases hr : s.input.rst with _ | _
  · rw [hr, if_neg Bool.false_ne_true] at hpg
    by_cases ht : s.pg.tcnt = s.cfg.PERIOD_TICKS - 1
    · rw [pulseNext, if_pos ht] at hpg
      obtain ⟨w, hw, hb⟩ := Option.map_eq_some_iff.mp hpg.symm
      exact .inr (.inl ⟨rfl, ht, w, hw, hb.symm⟩)
    · rw [pulseNext, if_neg ht] at hpg
      exact .inr (.inr ⟨rfl, ht, Option.some.inj hpg⟩)
  · rw [hr, if_pos rfl] at hpg
    exact .inl ⟨rfl, Option.some.inj hpg⟩

/-! The registers after reset (R39). -/

/-- Settles O1: the reset values are the table's, and `step_of_rst` gives a RESET cycle's. -/
theorem resetGivesTheTable : Obligations.ResetGivesTheTable :=
  ⟨rfl, rfl, fun _ _ => ⟨rfl, rfl⟩, fun _ hc hr => ⟨_, step_of_rst hc hr, rfl, rfl⟩⟩

theorem inv_of_reset_registers {s : State} (hc : s.cfg.WellFormed) (hs : s.smp = Sampler.reset)
    (hp : s.pg = PulseGen.reset) : s.Inv where
  config := hc
  mode_legal := by simp [hs]
  sample_range := by simp [hs]
  tcnt_range := by simp [hp]
  pulse_in_progress := by simp [hp]
  width_range := by simp [hp]
  button_wait := by simp [hs]
  no_overrun := by simp [hp]

theorem inv_resetWith {c : Config} (ins : List Input) (hc : c.WellFormed) : (State.resetWith c ins).Inv :=
  inv_of_reset_registers hc rfl rfl

theorem inv_of_step_of_rst {s t : State} (h : step s = .next t) (hr : s.input.rst = true) : t.Inv := by
  obtain ⟨hc, ⟨-, rfl⟩ | ⟨hr', -⟩⟩ := step_eq_next h
  · exact inv_of_reset_registers hc rfl rfl
  · simp [hr] at hr'

/-- Settles O43: every state that holds the reset table meets the invariant. -/
theorem invariantHoldsAfterReset : Obligations.InvariantHoldsAfterReset :=
  ⟨inv_resetWith [] (by decide), fun _ ins hc => inv_resetWith ins hc, fun _ _ hr h => inv_of_step_of_rst h hr⟩

/-! The outputs (R37). -/

@[simp] theorem Level.bit_eq_true {l : Level} : l.bit = true ↔ l = .high := by cases l <;> simp

theorem pwm_out_eq_true {s : State} : s.output.pwm_out = true ↔ s.pg.pwm_q = .high ∧ s.input.rst = false := by
  simp [State.output]

theorem adc_start_eq_true {s : State} :
    s.output.adc_start = true ↔ s.smp.smp_state = .issue ∧ s.input.rst = false := by
  simp [State.output]

/-- Settles O30: a cycle with `adc_start` = 1 is an SMP_ISSUE, which leaves the phase WAIT. -/
theorem outputsFollowStateAndReset : Obligations.OutputsFollowStateAndReset := by
  refine ⟨fun s => pwm_out_eq_true, fun s => adc_start_eq_true, fun s s' hs hp hr => ?_, fun s t ho h => ?_⟩
  · simp only [State.output, hs, hp, hr]
  · obtain ⟨hissue, hrst⟩ := adc_start_eq_true.mp ho
    rw [Bool.eq_false_iff, ne_eq, adc_start_eq_true]
    rcases smp_cases_of_step h with ⟨hr, -⟩ | ⟨-, -, m, -, ht⟩ | ⟨-, hp, -⟩ | ⟨-, hp, -⟩
    · simp [hrst] at hr
    · simp [ht]
    · simp [hissue] at hp
    · simp [hissue] at hp

/-! The Sampler's registers (R21 to R25). -/

/-- Settles O32, by the Sampler's four cases. -/
theorem rawSampleRule : Obligations.RawSampleRule := by
  intro s t h
  rcases smp_cases_of_step h with ⟨hr, ht⟩ | ⟨hr, hp, m, -, ht⟩ | ⟨hr, hp, hd, ht⟩ | ⟨hr, hp, hd, ht⟩
  · simp [ht, hr]
  · simp [ht, hr, hp]
  · simp [ht, hr, hp, hd]
  · simp [ht, hr, hd]

theorem mode_ne_three_of_step {s t : State} (h : step s = .next t) (hm : s.smp.mode ≠ 3) : t.smp.mode ≠ 3 := by
  rcases smp_cases_of_step h with ⟨-, ht⟩ | ⟨-, -, m, hnext, ht⟩ | ⟨-, -, -, ht⟩ | ⟨-, -, -, ht⟩ <;> rw [ht]
  · decide
  · rcases modeAfterSample_cases hnext with ⟨-, -, hadvance⟩ | rfl
    · exact mode_ne_three_iff.mpr (nextMode_eq_some hadvance).2.1
    · exact hm
  · exact hm
  · exact hm

/-- Settles O33: only SMP_ISSUE's release edge writes another mode, and `nextMode` never gives the reserved code. -/
theorem modeRule : Obligations.ModeRule := by
  refine ⟨fun s t h hrst hne => ?_, fun s t => mode_ne_three_of_step⟩
  rcases smp_cases_of_step h with ⟨hr, -⟩ | ⟨-, hp, m, hnext, ht⟩ | ⟨-, -, -, ht⟩ | ⟨-, -, -, ht⟩
  · simp [hrst] at hr
  · rw [ht] at hne ⊢
    rcases modeAfterSample_cases hnext with ⟨hprev, hbutton, hadvance⟩ | rfl
    · exact ⟨hp, hprev, hbutton, (nextMode_eq_some hadvance).2.2⟩
    · exact absurd rfl hne
  · exact absurd (by rw [ht]) hne
  · exact absurd (by rw [ht]) hne

theorem decode_selS_eq_smpIssue {s : State} :
    decode (selS s) = .ok (.smpIssue s.input.adc_done) ↔ s.input.rst = false ∧ s.smp.smp_state = .issue := by
  rw [decode_selS, samplerOp]
  split <;> simp_all

/-- The button sample that a cycle records, from the reset input and the phase. -/
theorem buttonWritten_eq (s : State) : buttonWritten s =
    if s.input.rst then some false else if s.smp.smp_state = .issue then some s.input.button_in else none := by
  rcases hr : s.input.rst with _ | _ <;> simp [buttonWritten, decode_selS_eq_smpIssue, hr]

theorem lastInRun_succ_of_step {α : Type} {f : State → Option α} {s t : State} (h : step s = .next t) (n : Nat) :
    lastInRun f (n + 1) s = (lastInRun f n t).or (f s) := by
  simp only [lastInRun, h]
  cases lastInRun f n t <;> rfl

/-- A register that each cycle sets to what `f` gives, or else keeps, holds after any run the last value of `f`. -/
theorem eq_lastInRun_getD {α : Type} {g : State → α} {f : State → Option α}
    (hstep : ∀ s t, step s = .next t → g t = (f s).getD (g s)) {n : Nat} {s t : State} (h : run n s = .next t) :
    g t = (lastInRun f n s).getD (g s) := by
  induction n generalizing s with
  | zero => cases h; rfl
  | succ n ih =>
    obtain ⟨u, hu, ht⟩ := run_succ_eq_next.mp h
    rw [lastInRun_succ_of_step hu, ih ht, hstep s u hu]
    cases lastInRun f n u <;> rfl

/-- Both button registers take the sample that a cycle records, and else keep theirs. -/
theorem buttons_of_step {s t : State} (h : step s = .next t) :
    t.smp.prev_button_state = (buttonWritten s).getD s.smp.prev_button_state ∧
    t.smp.button_state = (buttonWritten s).getD s.smp.button_state := by
  rw [buttonWritten_eq]
  rcases smp_cases_of_step h with ⟨hr, ht⟩ | ⟨hr, hp, m, -, ht⟩ | ⟨hr, hp, -, ht⟩ | ⟨hr, hp, -, ht⟩
  · simp [ht, hr]
  · simp [ht, hr, hp]
  · simp [ht, hr, hp]
  · simp [ht, hr, hp]

/-- Settles O34: the button registers by `eq_lastInRun_getD`, the phase by the Sampler's four cases. -/
theorem buttonRegistersAndPhaseRule : Obligations.ButtonRegistersAndPhaseRule := by
  have hprev {n s t} (h : run n s = .next t) :
      t.smp.prev_button_state = (lastInRun buttonWritten n s).getD s.smp.prev_button_state :=
    eq_lastInRun_getD (g := fun u => u.smp.prev_button_state) (fun _ _ hu => (buttons_of_step hu).1) h
  refine ⟨fun n s t h => ⟨hprev h, ?_⟩, fun c ins n t h => hprev h, fun s t h hrst => ?_⟩
  · exact eq_lastInRun_getD (g := fun u => u.smp.button_state) (fun _ _ hu => (buttons_of_step hu).2) h
  · rcases smp_cases_of_step h with ⟨hr, -⟩ | ⟨-, hp, m, -, ht⟩ | ⟨-, hp, hd, ht⟩ | ⟨-, hp, hd, ht⟩
    · simp [hrst] at hr
    · simp [ht, hp]
    · simp [ht, hp, hd]
    · simp [ht, hp, hd]

/-! The Pulse Generator's registers (R26 to R29). -/

/-- Settles O35: the fire's case writes the width and the line, the counting case keeps the one and ends the other. -/
theorem pulseRegistersRule : Obligations.PulseRegistersRule := by
  intro s t h hrst
  rcases pg_cases_of_step h with ⟨hr, -⟩ | ⟨-, hlast, w, hw, ht⟩ | ⟨-, hcount, ht⟩
  · simp [hrst] at hr
  · exact ⟨fun _ => by simp [ht, hw], fun hn => absurd hlast hn⟩
  · exact ⟨fun hl => absurd hl hcount, fun _ => by simp [ht]⟩

theorem ovr_of_step {s t : State} (h : step s = .next t) (hrst : s.input.rst = false) :
    t.pg.ovr = (s.pg.ovr || decide (s.pg.tcnt = s.cfg.PERIOD_TICKS - 1 ∧ s.pg.pwm_q = .high)) := by
  rcases pg_cases_of_step h with ⟨hr, -⟩ | ⟨-, hlast, w, -, ht⟩ | ⟨-, hcount, ht⟩
  · simp [hrst] at hr
  · rcases hq : s.pg.pwm_q with _ | _ <;> simp [ht, hlast, hq]
  · simp [ht, hcount]

/-! The invariant of R38. -/

/-- In the invariant a pulse ends before the last tick: its width is at most MAX_PULSE, which is below P (R207). -/
theorem State.Inv.line_low_at_last_tick {s : State} (h : s.Inv) (ht : s.pg.tcnt = s.cfg.PERIOD_TICKS - 1) :
    s.pg.pwm_q = .low := by
  apply Level.eq_low_of_ne_high
  intro hq
  obtain ⟨-, hlt⟩ := h.pulse_in_progress hq
  have := h.pulse_width_lt_period
  omega

/-- R38 (vi): SMP_ISSUE enters WAIT with equal button registers, and SMP_WAIT keeps them. -/
theorem State.Inv.button_wait_of_step {s t : State} (hi : s.Inv) (h : step s = .next t) :
    t.smp.smp_state = .wait → t.smp.button_state = t.smp.prev_button_state := by
  rcases smp_cases_of_step h with ⟨-, ht⟩ | ⟨-, -, m, -, ht⟩ | ⟨-, -, -, ht⟩ | ⟨-, -, -, ht⟩ <;> rw [ht]
  · simp
  · simp
  · simp
  · exact hi.button_wait

/-- R38 (iii): the counter restarts at the last tick. -/
theorem State.Inv.tcnt_range_of_step {s t : State} (hi : s.Inv) (h : step s = .next t) :
    t.pg.tcnt ≤ s.cfg.PERIOD_TICKS - 1 := by
  have htcnt := hi.tcnt_range
  rcases pg_cases_of_step h with ⟨-, ht⟩ | ⟨-, -, w, -, ht⟩ | ⟨-, hcount, ht⟩ <;> simp only [ht]
  · simp
  · omega
  · omega

/-- R38 (iv): a fire raises the line only for a positive width, and counting keeps it HIGH only below the width. -/
theorem pulse_in_progress_of_step {s t : State} (h : step s = .next t) :
    t.pg.pwm_q = .high → 1 ≤ t.pg.pulse_width ∧ t.pg.tcnt < t.pg.pulse_width := by
  rcases pg_cases_of_step h with ⟨-, ht⟩ | ⟨-, -, w, -, ht⟩ | ⟨-, -, ht⟩
  · simp [ht]
  · simp [ht, Nat.one_le_iff_ne_zero, Nat.pos_iff_ne_zero]
  · simp only [ht, ite_eq_left_iff, reduceCtorEq, imp_false, not_not]
    omega

/-- R38 (v): a fire writes a clamped width, and every other cycle but RESET keeps the one there. -/
theorem State.Inv.width_range_of_step {s t : State} (hi : s.Inv) (h : step s = .next t) :
    t.pg.pulse_width = 0 ∨ (s.cfg.MIN_PULSE ≤ t.pg.pulse_width ∧ t.pg.pulse_width ≤ s.cfg.MAX_PULSE) := by
  obtain ⟨-, hmin, hmax, -⟩ := hi.config
  rcases pg_cases_of_step h with ⟨-, ht⟩ | ⟨-, -, w, hw, ht⟩ | ⟨-, -, ht⟩ <;> rw [ht]
  · exact .inl rfl
  · exact .inr (width_bounds (hmin.trans hmax) hw)
  · exact hi.width_range

/-- R38 (vii): the line is LOW at the last tick, so no fire sets the flag. -/
theorem State.Inv.no_overrun_of_step {s t : State} (hi : s.Inv) (h : step s = .next t) : t.pg.ovr = false := by
  rcases pg_cases_of_step h with ⟨-, ht⟩ | ⟨-, hlast, w, -, ht⟩ | ⟨-, -, ht⟩ <;> rw [ht]
  · rfl
  · simp [hi.no_overrun, hi.line_low_at_last_tick hlast]
  · exact hi.no_overrun

theorem State.Inv.step {s t : State} (hi : s.Inv) (h : step s = .next t) : t.Inv where
  config := cfg_of_step h ▸ hi.config
  mode_legal := mode_ne_three_iff.mp (mode_ne_three_of_step h (mode_ne_three_iff.mpr hi.mode_legal))
  sample_range := Nat.le_of_lt_succ t.smp.raw_sample.isLt
  tcnt_range := cfg_of_step h ▸ hi.tcnt_range_of_step h
  pulse_in_progress := pulse_in_progress_of_step h
  width_range := cfg_of_step h ▸ hi.width_range_of_step h
  button_wait := hi.button_wait_of_step h
  no_overrun := hi.no_overrun_of_step h

theorem State.Inv.run {n : Nat} {s t : State} (hi : s.Inv) (h : run n s = .next t) : t.Inv :=
  run_keeps (fun _ _ hs => hs.step) hi h

/-- Settles O44: a step keeps each part of R38, and the reset state meets them all. -/
theorem everyStepKeepsTheInvariant : Obligations.EveryStepKeepsTheInvariant :=
  ⟨fun _ _ => State.Inv.step, fun _ ins _ _ hc => (inv_resetWith ins hc).run⟩

/-- Settles O36: the flag by the Pulse Generator's cases, and after a run by the invariant. -/
theorem overrunFlagRule : Obligations.OverrunFlagRule :=
  ⟨fun _ _ => ovr_of_step, fun _ _ h hr => (inv_of_step_of_rst h hr).no_overrun,
    fun _ hi _ _ h => (hi.run h).no_overrun⟩

/-! The registers that are observable only (R20): no next value reads them, but for their own. -/

/-- The state with other values in `button_state` and `ovr`. -/
def State.setObservable (s : State) (b o : Bool) : State :=
  { s with smp := { s.smp with button_state := b }, pg := { s.pg with ovr := o } }

section SetObservable
variable (s : State) (b o : Bool)

@[simp] theorem State.setObservable_cfg : (s.setObservable b o).cfg = s.cfg := rfl
@[simp] theorem State.setObservable_input : (s.setObservable b o).input = s.input := rfl
@[simp] theorem State.setObservable_raw_sample : (s.setObservable b o).smp.raw_sample = s.smp.raw_sample := rfl
@[simp] theorem State.setObservable_mode : (s.setObservable b o).smp.mode = s.smp.mode := rfl
@[simp] theorem State.setObservable_button_state : (s.setObservable b o).smp.button_state = b := rfl
@[simp] theorem State.setObservable_prev_button_state :
    (s.setObservable b o).smp.prev_button_state = s.smp.prev_button_state := rfl
@[simp] theorem State.setObservable_smp_state : (s.setObservable b o).smp.smp_state = s.smp.smp_state := rfl
@[simp] theorem State.setObservable_tcnt : (s.setObservable b o).pg.tcnt = s.pg.tcnt := rfl
@[simp] theorem State.setObservable_pulse_width : (s.setObservable b o).pg.pulse_width = s.pg.pulse_width := rfl
@[simp] theorem State.setObservable_pwm_q : (s.setObservable b o).pg.pwm_q = s.pg.pwm_q := rfl
@[simp] theorem State.setObservable_ovr : (s.setObservable b o).pg.ovr = o := rfl

/-- No output word shows the two registers (R37). -/
@[simp] theorem State.output_setObservable : (s.setObservable b o).output = s.output := rfl

@[simp] theorem modeAfterSample_setObservable : modeAfterSample (s.setObservable b o) = modeAfterSample s := rfl

end SetObservable

theorem samplerNext_setObservable {s : State} {x : Sampler} (h : samplerNext s = some x) (b o : Bool) :
    ∃ b', samplerNext (s.setObservable b o) = some { x with button_state := b' } := by
  rcases hp : s.smp.smp_state with _ | _ <;> simp only [samplerNext, hp] at h
  · obtain ⟨m, hm, rfl⟩ := Option.map_eq_some_iff.mp h
    exact ⟨s.input.button_in, by simp [samplerNext, hp, hm]⟩
  · refine ⟨b, ?_⟩
    rw [← Option.some.inj h, samplerNext, State.setObservable_smp_state, hp, State.setObservable_input]
    cases s.input.adc_done <;> rfl

theorem pulseNext_setObservable {s : State} {y : PulseGen} (h : pulseNext s = some y) (b o : Bool) :
    ∃ o', pulseNext (s.setObservable b o) = some { y with ovr := o' } := by
  by_cases ht : s.pg.tcnt = s.cfg.PERIOD_TICKS - 1
  · rw [pulseNext, if_pos ht] at h
    obtain ⟨w, hw, rfl⟩ := Option.map_eq_some_iff.mp h
    exact ⟨o || s.pg.pwm_q.bit, by simp [pulseNext, ht, hw]⟩
  · rw [pulseNext, if_neg ht] at h
    obtain rfl := Option.some.inj h
    exact ⟨o, by rw [pulseNext, State.setObservable_tcnt, State.setObservable_cfg, if_neg ht]; rfl⟩

theorem step_setObservable {s t : State} (h : step s = .next t) (b o : Bool) :
    ∃ b' o', step (s.setObservable b o) = .next (t.setObservable b' o') := by
  obtain ⟨hc, ⟨hr, rfl⟩ | ⟨hr, hl, x, y, hx, hy, rfl⟩⟩ := step_eq_next h
  · exact ⟨false, false, step_of_rst (s := s.setObservable b o) hc hr⟩
  · obtain ⟨b', hx'⟩ := samplerNext_setObservable hx b o
    obtain ⟨o', hy'⟩ := pulseNext_setObservable hy b o
    refine ⟨b', o', ?_⟩
    rw [step_of_not_rst (s := s.setObservable b o) hc hl hr, hx', hy']
    rfl

theorem outputWords_succ_of_step {s t : State} (h : step s = .next t) (n : Nat) :
    outputWords (n + 1) s = s.output.toWord :: outputWords n t := by
  simp only [outputWords, h]

theorem run_setObservable {n : Nat} {s t : State} (h : run n s = .next t) (b o : Bool) :
    ∃ b' o', run n (s.setObservable b o) = .next (t.setObservable b' o') ∧
      outputWords n (s.setObservable b o) = outputWords n s := by
  induction n generalizing s b o with
  | zero => cases h; exact ⟨b, o, rfl, rfl⟩
  | succ n ih =>
    obtain ⟨u, hu, ht⟩ := run_succ_eq_next.mp h
    obtain ⟨c, p, hu'⟩ := step_setObservable hu b o
    obtain ⟨b', o', ht', hwords⟩ := ih ht c p
    refine ⟨b', o', run_succ_eq_next.mpr ⟨_, hu', ht'⟩, ?_⟩
    rw [outputWords_succ_of_step hu', outputWords_succ_of_step hu, hwords, State.output_setObservable]

/-- Settles O59: a step keeps two states equal but for `button_state` and `ovr`, and their outputs are equal. -/
theorem observableOnlyRegisters : Obligations.ObservableOnlyRegisters :=
  fun _ _ _ b o h => run_setObservable h b o

end Sys2Proof.Machine
end

section
/-! SUPPORT. The proofs of the statements about the ordering of the Sampler's writes and the Pulse Generator's reads
(spec/20_memory.md): a fire reads what the edges before its cycle have written. -/

namespace Sys2Proof.Machine

/-! A fire and the width it computes (R15, R131). -/

/-- R131: the fires are the cycles without reset at the last tick. -/
theorem fires_iff {s : State} : s.Fires ↔ s.input.rst = false ∧ s.pg.tcnt = s.cfg.PERIOD_TICKS - 1 := by
  simp only [State.Fires, decode_selP, Except.ok.injEq, ← ev_eq_true]
  constructor
  · rintro ⟨k, h⟩
    unfold pulseOp at h
    split at h <;> simp_all
  · rintro ⟨hr, he⟩
    rcases hq : s.pg.pwm_q with _ | _
    · exact ⟨_, .inl (pulseOp_fire hr he hq)⟩
    · exact ⟨_, .inr (pulseOp_fireOvr hr he hq)⟩

/-- A fire's width is that of the pre-edge `mode` and `raw_sample`, whatever the Sampler writes in its cycle. -/
theorem State.Fires.width_of_step {s t : State} (hf : s.Fires) (h : step s = .next t) :
    width s.cfg s.smp.mode s.smp.raw_sample = some t.pg.pulse_width := by
  obtain ⟨hr, hlast⟩ := fires_iff.mp hf
  exact ((pulseRegistersRule s t h hr).1 hlast).1

/-- The mode after an SMP_ISSUE cycle that samples a release edge. -/
theorem mode_of_step_of_release {s t : State} (h : step s = .next t) (hrst : s.input.rst = false)
    (hissue : s.smp.smp_state = .issue) (hprev : s.smp.prev_button_state = true) (hbutton : s.input.button_in = false) :
    t.smp.mode.toNat = (s.smp.mode.toNat + 1) % 3 := by
  have hedge := releaseEdge_eq_true.mpr ⟨hprev, hbutton⟩
  rcases smp_cases_of_step h with ⟨hr, -⟩ | ⟨-, -, m, hm, ht⟩ | ⟨-, hp, -⟩ | ⟨-, hp, -⟩
  · simp [hrst] at hr
  · rw [modeAfterSample, if_pos hedge] at hm
    rw [ht]
    exact (nextMode_eq_some hm).2.2
  · simp [hissue] at hp
  · simp [hissue] at hp

/-- Settles O40: the Sampler's registers by its own rules, the fire's width by `State.Fires.width_of_step`, and one
selector never decodes to two operations. -/
theorem simultaneousEvents : Obligations.SimultaneousEvents := by
  refine ⟨fun s t hr h => ?_, fun s t hf h hwait hdone => ⟨?_, hf.width_of_step h⟩,
    fun s t hf h hissue hprev hbutton => ⟨?_, hf.width_of_step h⟩, ?_⟩
  · obtain ⟨-, ⟨-, rfl⟩ | ⟨hr', -⟩⟩ := step_eq_next h
    · exact ⟨rfl, rfl⟩
    · simp [hr] at hr'
  · simp [rawSampleRule s t h, (fires_iff.mp hf).1, hwait, hdone]
  · exact mode_of_step_of_release h (fires_iff.mp hf).1 hissue hprev hbutton
  · rintro s ⟨hend, k, hfire | hfire⟩ <;> simp [hend] at hfire

/-! The last completed sample and mode (R58). -/

theorem decode_selS_eq_smpLatch {s : State} : decode (selS s) = .ok .smpLatch ↔
    s.input.rst = false ∧ s.smp.smp_state = .wait ∧ s.input.adc_done = true := by
  rw [decode_selS, samplerOp]
  split <;> simp_all

/-- The sample that a cycle completes, from the reset input, the phase and the ADC's report. -/
theorem sampleWritten_eq (s : State) : sampleWritten s =
    if s.input.rst then some 0
    else if s.smp.smp_state = .wait ∧ s.input.adc_done = true then some s.input.adc_result else none := by
  rcases hr : s.input.rst with _ | _ <;> simp [sampleWritten, decode_selS_eq_smpLatch, hr]

/-- The mode that a cycle completes, from the reset input and the phase. -/
theorem modeWritten_eq (s : State) : modeWritten s =
    if s.input.rst then some 0 else if s.smp.smp_state = .issue then modeAfterSample s else none := by
  rcases hr : s.input.rst with _ | _ <;> simp [modeWritten, modeAfterSample, decode_selS_eq_smpIssue, hr]

theorem raw_sample_of_step {s t : State} (h : step s = .next t) :
    t.smp.raw_sample = (sampleWritten s).getD s.smp.raw_sample := by
  rw [rawSampleRule s t h, sampleWritten_eq]
  split
  · rfl
  · split <;> rfl

theorem mode_of_step {s t : State} (h : step s = .next t) : t.smp.mode = (modeWritten s).getD s.smp.mode := by
  rw [modeWritten_eq]
  rcases smp_cases_of_step h with ⟨hr, ht⟩ | ⟨hr, hp, m, hm, ht⟩ | ⟨hr, hp, -, ht⟩ | ⟨hr, hp, -, ht⟩
  · simp [ht, hr]
  · simp [ht, hr, hp, hm]
  · simp [ht, hr, hp]
  · simp [ht, hr, hp]

theorem raw_sample_of_run {n : Nat} {s t : State} (h : run n s = .next t) :
    t.smp.raw_sample = (lastInRun sampleWritten n s).getD s.smp.raw_sample :=
  eq_lastInRun_getD (g := fun u => u.smp.raw_sample) (fun _ _ => raw_sample_of_step) h

theorem mode_of_run {n : Nat} {s t : State} (h : run n s = .next t) :
    t.smp.mode = (lastInRun modeWritten n s).getD s.smp.mode :=
  eq_lastInRun_getD (g := fun u => u.smp.mode) (fun _ _ => mode_of_step) h

/-- Settles O51: both registers hold the run's last completed update, and the fire reads them before its own edge. -/
theorem fireSeesTheLastCompletedUpdates : Obligations.FireSeesTheLastCompletedUpdates := by
  refine ⟨fun n s t h => ⟨raw_sample_of_run h, mode_of_run h⟩, fun c ins n t u h hf hu => ?_⟩
  have hcfg : t.cfg = c := cfg_of_run h
  have hmode : t.smp.mode = (lastInRun modeWritten n (State.resetWith c ins)).getD 0 := mode_of_run h
  have hraw : t.smp.raw_sample = (lastInRun sampleWritten n (State.resetWith c ins)).getD 0 := raw_sample_of_run h
  have hwidth := hf.width_of_step hu
  rwa [hcfg, hmode, hraw] at hwidth

end Sys2Proof.Machine
end

section
/-! SUPPORT. The proofs of the statements about the encodings (spec/30_encoding.md): the operation map and its decoder, the
input and output words, the traces and their assembler, the reserved mode, and the placed selector. -/

namespace Sys2Proof.Machine

/-! The decoder as a search through the rows of R80, after the reserved selectors of R82. -/

/-- R82: bit 0 set, or a Sampler selector with bit 1 set. -/
abbrev ReservedSelector (w : Selector) : Prop :=
  w.getLsbD 0 = true ∨ (w.getLsbD 5 = false ∧ w.getLsbD 4 = false ∧ w.getLsbD 1 = true)

/-- R80: the rows are disjoint. -/
theorem opRows_selecting_length_le_one : ∀ w : Selector, (opRows.filter (·.selects w)).length ≤ 1 := by decide

/-- R80, R82: the rows cover every selector that is not reserved. -/
theorem exists_row_or_reserved :
    ∀ w : Selector, (∃ r ∈ opRows, r.selects w = true) ∨ ReservedSelector w := by decide

/-- The rows cover every selector that is not reserved, so each one decodes. -/
theorem decode_cases (w : Selector) :
    (ReservedSelector w ∧ ∃ e, decode w = .error e) ∨
    (¬ ReservedSelector w ∧ ∃ r ∈ opRows, r.selects w = true ∧ decode w = .ok (r.build w)) := by
  by_cases h0 : w.getLsbD 0 = true
  · exact .inl ⟨.inl h0, .reservedBit0, by rw [decode, if_pos h0]⟩
  by_cases h1 : (!w.getLsbD 5 && !w.getLsbD 4 && w.getLsbD 1) = true
  · refine .inl ⟨.inr (by simpa [and_assoc] using h1), .reservedSamplerBit1, ?_⟩
    rw [decode, if_neg h0, if_pos h1]
  have hres : ¬ ReservedSelector w := by
    rintro (h | h)
    · exact h0 h
    · exact h1 (by simpa [and_assoc] using h)
  refine .inr ⟨hres, ?_⟩
  rcases hfind : opRows.find? (·.selects w) with _ | r
  · obtain ⟨r, hr, hsel⟩ := (exists_row_or_reserved w).resolve_right hres
    exact absurd hsel (List.find?_eq_none.mp hfind r hr)
  · refine ⟨r, List.mem_of_find?_eq_some hfind, by simpa using List.find?_some hfind, ?_⟩
    rw [decode, if_neg h0, if_neg h1, hfind]

theorem exists_decode_error_iff {w : Selector} : (∃ e, decode w = .error e) ↔ ReservedSelector w := by
  obtain ⟨hres, h⟩ | ⟨hres, r, -, -, h⟩ := decode_cases w
  · exact iff_of_true h hres
  · exact iff_of_false (by simp [h]) hres

/-- What a decoded selector is: not reserved, in some row, and built into its operation by that row. -/
theorem row_of_decode {w : Selector} {i : Instr} (h : decode w = .ok i) :
    ¬ ReservedSelector w ∧ ∃ r ∈ opRows, r.selects w = true ∧ r.build w = i := by
  obtain ⟨-, e, he⟩ | ⟨hres, r, hr, hsel, hb⟩ := decode_cases w
  · simp [h] at he
  · exact ⟨hres, r, hr, hsel, Except.ok.inj (hb.symm.trans h)⟩

/-- A selector that decodes lies in exactly one row. -/
theorem opRows_selecting_length_of_decode {w : Selector} {i : Instr} (h : decode w = .ok i) :
    (opRows.filter (·.selects w)).length = 1 := by
  obtain ⟨-, r, hr, hsel, -⟩ := row_of_decode h
  exact le_antisymm (opRows_selecting_length_le_one w) (List.length_pos_of_mem (List.mem_filter.mpr ⟨hr, hsel⟩))

/-- Settles O19: disjoint rows over all selectors, and each agent's operation by `decode_selS` and `decode_selP`. -/
theorem selectorPicksOneOperationPerAgent : Obligations.SelectorPicksOneOperationPerAgent := by
  refine ⟨rfl, opRows_selecting_length_le_one, fun s => ⟨opRows_selecting_length_of_decode (decode_selS s),
    opRows_selecting_length_of_decode (decode_selP s)⟩, fun s hr => ?_, fun s hr => ?_, fun s hr => ?_⟩
  · simp [decode_selS, decode_selP, samplerOp, pulseOp, hr]
  · rw [decode_selS]
    rcases hp : s.smp.smp_state with _ | _
    · simp [samplerOp_issue hr hp]
    · rcases hd : s.input.adc_done with _ | _
      · simp [samplerOp_wait hr hp hd]
      · simp [samplerOp_latch hr hp hd]
  · rw [decode_selP]
    rcases he : ev s with _ | _ <;> rcases hq : s.pg.pwm_q with _ | _
    · simp [pulseOp_idle hr he hq]
    · rcases hk : reach s with _ | _
      · simp [pulseOp_hold hr he hq hk]
      · simp [pulseOp_end hr he hq hk]
    · simp [pulseOp_fire hr he hq]
    · simp [pulseOp_fireOvr hr he hq]

/-! The encoder against the decoder (R78, R80). -/

/-- R80, R81: each row rebuilds, from the selector's don't-care bits, an operation that encodes to the selector. -/
theorem encode_build : ∀ r ∈ opRows, ∀ w : Selector, r.selects w = true → w.getLsbD 0 = false →
    encode (r.build w) = w ∧ (r.build w).wellFormed = true := by decide

/-- An operation's own selector decodes to it, at every value of its operands. -/
theorem decode_encode {i : Instr} (h : i.wellFormed = true) : decode (encode i) = .ok i := by
  cases i with
  | reset x => revert x; decide
  | smpIssue d => cases d <;> rfl
  | pgIdle k => cases k <;> rfl
  | pgFire k => cases k <;> rfl
  | pgFireOvr k => cases k <;> rfl
  | smpWait => rfl
  | smpLatch => rfl
  | pgHold => rfl
  | pgEnd => rfl

theorem encode_of_decode {w : Selector} {i : Instr} (h : decode w = .ok i) : encode i = w ∧ i.wellFormed = true := by
  obtain ⟨hres, r, hr, hsel, rfl⟩ := row_of_decode h
  exact encode_build r hr w hsel (Bool.eq_false_iff.mpr fun h0 => hres (.inl h0))

/-- Only RESET can be ill-formed, and then its selector's bit 0 is set. -/
theorem decode_encode_of_not_wellFormed {i : Instr} (h : i.wellFormed = false) :
    decode (encode i) = .error .reservedBit0 := by
  cases i with
  | reset x => revert x; decide
  | _ => simp [Instr.wellFormed] at h

/-- The table's word of a selector is the selector. -/
theorem decodeTableWord_toNat (w : Selector) : decodeTableWord 6 w.toNat = (decode w).toOption := by
  have hlt : w.toNat < 64 := w.isLt
  simp [decodeTableWord, decodeWord, Nat.mod_eq_of_lt hlt, hlt]

/-- Settles O20: constructor by constructor from operation to selector, row by row back. -/
theorem decodeEncodeAgree : Obligations.DecodeEncodeAgree := by
  refine ⟨fun i hi => ⟨decode_encode hi, ?_⟩, fun w i => encode_of_decode, fun i => decode_encode_of_not_wellFormed⟩
  rw [decodeTableWord_toNat, decode_encode hi]
  rfl

/-- Settles O22, by the search through the rows for each of the nine selectors. -/
theorem decodedSelectorsSanity : Obligations.DecodedSelectorsSanity :=
  ⟨rfl, rfl, rfl, rfl, rfl, rfl, rfl, rfl, rfl⟩

/-! No cycle meets a reserved selector (R79, R82). -/

/-- A step that faults does so for the reserved mode: a cycle computes its selectors, and these decode. -/
theorem fault_eq_reservedMode_of_step {s : State} {r : Fault} (h : step s = .fault r) : r = .reservedMode := by
  by_cases hc : s.cfg.WellFormed
  · rcases hr : s.input.rst with _ | _
    · by_cases hl : s.Legal
      · rw [step_of_not_rst hc hl hr] at h
        split at h <;> cases h
        rfl
      · rw [step_of_illFormedState hc hr hl] at h; cases h
    · rw [step_of_rst hc hr] at h; cases h
  · rw [step_of_illFormedConfig hc] at h; cases h

/-- Settles O21: the rejected selectors by `decode_cases`, and the only fault of a step is another. -/
theorem reservedSelectorsAreRejected : Obligations.ReservedSelectorsAreRejected := by
  refine ⟨fun w => exists_decode_error_iff, fun s => ⟨⟨_, decode_selS s⟩, _, decode_selP s⟩, fun s h => ?_⟩
  cases fault_eq_reservedMode_of_step h

/-! The input word and the output word (R76, R77). -/

/-- A field above `n` bits weighs `2 ^ n`. -/
theorem toNat_append_eq_add {m n : Nat} (x : BitVec m) (y : BitVec n) :
    (x ++ y).toNat = x.toNat * 2 ^ n + y.toNat := by
  rw [BitVec.toNat_append, ← Nat.shiftLeft_add_eq_or_of_lt y.isLt, Nat.shiftLeft_eq]

/-- The places of the input word's fields: `r` weighs 2^12, `b` 2^11, `d` 2^10 (R76). -/
theorem Input.toNat_toWord (i : Input) : i.toWord.toNat = (if i.rst then 4096 else 0) +
    (if i.button_in then 2048 else 0) + (if i.adc_done then 1024 else 0) + i.adc_result.toNat := by
  obtain ⟨r, b, d, v⟩ := i
  simp only [Input.toWord, toNat_append_eq_add]
  cases r <;> cases b <;> cases d <;> simp

theorem Output.toNat_toWord (o : Output) :
    o.toWord.toNat = (if o.adc_start then 2 else 0) + (if o.pwm_out then 1 else 0) := by
  obtain ⟨a, p⟩ := o
  cases a <;> cases p <;> rfl

theorem Input.ofWord_toWord (i : Input) : Input.ofWord i.toWord = i := by
  obtain ⟨r, b, d, v⟩ := i
  simp only [Input.ofWord, Input.toWord, BitVec.extractLsb'_append_eq_right]
  simp only [BitVec.getLsbD_append, BitVec.getLsbD_ofBool]
  rfl

theorem Input.toWord_ofWord (w : InputWord) : (Input.ofWord w).toWord = w := by
  apply BitVec.eq_of_getLsbD_eq
  intro k hk
  simp only [Input.ofWord, Input.toWord, BitVec.getLsbD_append, BitVec.getLsbD_ofBool, BitVec.getLsbD_extractLsb']
  obtain h | rfl | rfl | rfl : k < 10 ∨ k = 10 ∨ k = 11 ∨ k = 12 := by omega
  · simp [h]
  · simp
  · simp
  · simp

/-- Two states that differ in this cycle's inputs step alike where both reset or neither does, and where, outside RESET,
the Sampler's next registers are the same. -/
theorem step_congr {s t : State} (hcfg : s.cfg = t.cfg) (hsmp : s.smp = t.smp) (hpg : s.pg = t.pg)
    (htail : s.inputs.tail = t.inputs.tail) (hdrawn : s.drawn = t.drawn) (hrst : s.input.rst = t.input.rst)
    (hnext : s.input.rst = false → samplerNext s = samplerNext t) : step s = step t := by
  have hedge (a : Sampler) (b : PulseGen) : s.clockEdge a b = t.clockEdge a b := by
    simp only [State.clockEdge, hcfg, htail, hdrawn]
  have hlegal : s.Legal ↔ t.Legal := by simp only [State.Legal, hcfg, hpg]
  by_cases hc : s.cfg.WellFormed <;> have hc' := hcfg ▸ hc
  · rcases hr : s.input.rst with _ | _ <;> have hr' := hrst ▸ hr
    · by_cases hl : s.Legal
      · rw [step_of_not_rst hc hl hr, step_of_not_rst hc' (hlegal.mp hl) hr', hnext hr,
          pulseNext_congr hcfg hpg (by rw [hsmp]) (by rw [hsmp])]
        simp only [hedge]
      · rw [step_of_illFormedState hc hr hl, step_of_illFormedState hc' hr' (mt hlegal.mpr hl)]
    · rw [step_of_rst hc hr, step_of_rst hc' hr', hedge]
  · rw [step_of_illFormedConfig hc, step_of_illFormedConfig hc']

/-- R76: of a cycle's input fields the step reads `r`, and outside RESET what the Sampler's operation reads. -/
theorem step_inputs_congr {s : State} {i j : Input} (rest : List Input) (hrst : i.rst = j.rst)
    (hnext : i.rst = false →
      samplerNext { s with inputs := i :: rest } = samplerNext { s with inputs := j :: rest }) :
    step { s with inputs := i :: rest } = step { s with inputs := j :: rest } :=
  step_congr rfl rfl rfl rfl rfl hrst hnext

/-- SMP_ISSUE reads the button alone. -/
theorem samplerNext_inputs_of_issue {s : State} {i j : Input} (rest : List Input) (hp : s.smp.smp_state = .issue)
    (hb : i.button_in = j.button_in) :
    samplerNext { s with inputs := i :: rest } = samplerNext { s with inputs := j :: rest } := by
  simp [samplerNext, modeAfterSample, State.input, State.inputAt, hp, hb]

/-- SMP_WAIT and SMP_LATCH do not read the button, and only SMP_LATCH reads the result. -/
theorem samplerNext_inputs_of_wait {s : State} {i j : Input} (rest : List Input) (hp : s.smp.smp_state = .wait)
    (hd : i.adc_done = j.adc_done) (hv : i.adc_done = true → i.adc_result = j.adc_result) :
    samplerNext { s with inputs := i :: rest } = samplerNext { s with inputs := j :: rest } := by
  rcases hd' : i.adc_done with _ | _
  · simp [samplerNext, State.input, State.inputAt, hp, ← hd, hd']
  · simp [samplerNext, State.input, State.inputAt, hp, ← hd, hd', hv hd']

/-- Settles O23: the words field by field, and the ignored fields by what the Sampler's next registers read. -/
theorem inputAndOutputWords : Obligations.InputAndOutputWords := by
  refine ⟨Input.toNat_toWord, Input.ofWord_toWord, Input.toWord_ofWord, Output.toNat_toWord,
    fun s i j rest hrst hignored => step_inputs_congr rest hrst fun hr => ?_⟩
  obtain hr' | ⟨hp, hb⟩ | ⟨hp, hd, hv⟩ := hignored
  · simp [hr] at hr'
  · exact samplerNext_inputs_of_issue rest hp hb
  · exact samplerNext_inputs_of_wait rest hp hd hv

/-! The assembler (R85, R86). -/

/-- A statement stands for cycles exactly when it is well formed. -/
theorem exists_stmtInputs_iff {st : Stmt} : (∃ l, stmtInputs st = .ok l) ↔ st.wellFormed = true := by
  induction st with
  | rst => simp [stmtInputs, Stmt.wellFormed]
  | cyc b => by_cases hb : b ≤ 1 <;> simp [stmtInputs, Stmt.wellFormed, hb]
  | done b v => by_cases hb : b ≤ 1 <;> by_cases hv : v ≤ 1023 <;> simp [stmtInputs, Stmt.wellFormed, hb, hv]
  | rep n st ih =>
    rw [Stmt.wellFormed, Bool.and_eq_true, ← ih, stmtInputs]
    rcases stmtInputs st with e | l
    · simp
    · by_cases hn : 1 ≤ n <;> simp [hn]
  | press => simp [stmtInputs, Stmt.wellFormed]
  | release => simp [stmtInputs, Stmt.wellFormed]

/-- A list assembles exactly when its first statement stands for cycles and the rest assembles. -/
theorem assemble_cons_eq_ok {st : Stmt} {sts : List Stmt} {ws : List InputWord} :
    assemble (st :: sts) = .ok ws ↔
      ∃ l vs, stmtInputs st = .ok l ∧ assemble sts = .ok vs ∧ ws = l.map Input.toWord ++ vs := by
  rw [assemble]
  cases stmtInputs st <;> cases assemble sts <;> simp [eq_comm]

theorem assemble_cons_of_ok {st : Stmt} {sts : List Stmt} {l : List Input} {vs : List InputWord}
    (hst : stmtInputs st = .ok l) (hsts : assemble sts = .ok vs) :
    assemble (st :: sts) = .ok (l.map Input.toWord ++ vs) := assemble_cons_eq_ok.mpr ⟨l, vs, hst, hsts, rfl⟩

theorem assemble_singleton_of_ok {st : Stmt} {l : List Input} (h : stmtInputs st = .ok l) :
    assemble [st] = .ok (l.map Input.toWord) := by
  simpa using assemble_cons_of_ok h (sts := []) rfl

theorem assemble_singleton_of_error {st : Stmt} {e : AsmError} (h : stmtInputs st = .error e) :
    assemble [st] = .error e := by
  simp [assemble, h]

theorem exists_assemble_iff {sts : List Stmt} :
    (∃ ws, assemble sts = .ok ws) ↔ ∀ st ∈ sts, st.wellFormed = true := by
  induction sts with
  | nil => simp [assemble]
  | cons st sts ih =>
    rw [List.forall_mem_cons, ← ih, ← exists_stmtInputs_iff]
    constructor
    · rintro ⟨ws, h⟩
      obtain ⟨l, vs, hst, hsts, -⟩ := assemble_cons_eq_ok.mp h
      exact ⟨⟨l, hst⟩, vs, hsts⟩
    · rintro ⟨⟨l, hst⟩, vs, hsts⟩
      exact ⟨_, assemble_cons_of_ok hst hsts⟩

theorem assemble_append {a b : List Stmt} {x y : List InputWord} (ha : assemble a = .ok x) (hb : assemble b = .ok y) :
    assemble (a ++ b) = .ok (x ++ y) := by
  induction a generalizing x with
  | nil => cases ha; exact hb
  | cons st a ih =>
    obtain ⟨l, vs, hst, hrest, rfl⟩ := assemble_cons_eq_ok.mp ha
    rw [List.append_assoc]
    exact assemble_cons_of_ok hst (ih hrest)

/-- Settles O26, by induction on the list of statements. -/
theorem assemblerAcceptsWellFormed : Obligations.AssemblerAcceptsWellFormed :=
  ⟨fun _ => exists_assemble_iff, fun _ _ _ _ => assemble_append⟩

theorem assemble_replicate {st : Stmt} {l : List Input} (h : stmtInputs st = .ok l) (n : Nat) :
    assemble (List.replicate n st) = .ok ((List.replicate n l).flatten.map Input.toWord) := by
  induction n with
  | zero => rfl
  | succ n ih =>
    rw [List.replicate_succ, List.replicate_succ, List.flatten_cons, List.map_append]
    exact assemble_cons_of_ok h ih

/-- R86: `REP n, S` stands for the cycles of S, n times over. -/
theorem stmtInputs_rep {n : Nat} {st : Stmt} {l : List Input} (hn : 1 ≤ n) (h : stmtInputs st = .ok l) :
    stmtInputs (.rep n st) = .ok (List.replicate n l).flatten := by
  simp [stmtInputs, h, hn]

/-- Settles O25: `REP` and its copies stand for the same cycles, and SMP_ISSUE reads the button alone. -/
theorem pseudoStatementsExpand : Obligations.PseudoStatementsExpand := by
  refine ⟨fun n st hn hst => ?_, rfl, rfl, rfl, rfl, rfl, fun s b v rest hp => ?_⟩
  · obtain ⟨l, hl⟩ := exists_stmtInputs_iff.mpr hst
    rw [assemble_replicate hl, assemble_singleton_of_ok (stmtInputs_rep hn hl)]
  · exact step_inputs_congr rest rfl fun _ => samplerNext_inputs_of_issue rest hp rfl

/-- R85, R76: the word of a run cycle. -/
theorem toWord_runInput {b v : Nat} (hb : b ≤ 1) (hv : v ≤ 1023) (d : Bool) :
    (runInput b d v).toWord = BitVec.ofNat 13 (b * 2 ^ 11 + (if d then 0x400 else 0) + v) := by
  apply BitVec.eq_of_toNat_eq
  rw [Input.toNat_toWord]
  interval_cases b <;> cases d <;> simp [runInput] <;> omega

/-! The text of a trace (R85). -/

theorem stripComment_append (l c : List Char) : stripComment (l ++ ';' :: c) = stripComment l := by
  induction l with
  | nil => simp [stripComment]
  | cons x l ih =>
    simp only [stripComment, List.cons_append, List.takeWhile_cons] at ih ⊢
    rw [ih]

/-- The first line of a text runs to its first line end. -/
theorem textLines_append {l : List Char} (h : '\n' ∉ l) (cur text : List Char) :
    textLines cur (l ++ '\n' :: text) = (cur.reverse ++ l) :: textLines [] text := by
  induction l generalizing cur with
  | nil => simp [textLines]
  | cons x l ih =>
    obtain ⟨hx, hl⟩ := List.ne_and_not_mem_of_not_mem_cons h
    rw [List.cons_append, textLines, if_neg hx.symm, ih hl]
    simp

/-- Settles O24: the words by `toWord_runInput`, the refusals by the statement's own check, the text by its lines. -/
theorem traceStatementsAndWords : Obligations.TraceStatementsAndWords := by
  refine ⟨rfl, fun b hb => ?_, fun b v hb hv => ?_, fun b hb => ?_, fun b v hb => ?_, fun b v hb hv => ?_,
    fun l c => ?_, fun l text hl => textLines_append hl [] text, rfl, rfl, rfl⟩
  · rw [assemble_singleton_of_ok (l := [runInput b false 0]) (by simp [stmtInputs, hb])]
    simp [toWord_runInput hb]
  · rw [assemble_singleton_of_ok (l := [runInput b true v]) (by simp [stmtInputs, hb, hv])]
    simp [toWord_runInput hb hv]
  · exact assemble_singleton_of_error (by simp [stmtInputs, hb])
  · exact assemble_singleton_of_error (by simp [stmtInputs, hb])
  · exact assemble_singleton_of_error (by simp [stmtInputs, hb, hv])
  · rw [parseLine, parseLine, stripComment_append]

/-! The result of a trace (R87). -/

theorem outputWords_length_of_run {n : Nat} {s t : State} (h : run n s = .next t) : (outputWords n s).length = n := by
  induction n generalizing s with
  | zero => rfl
  | succ n ih =>
    obtain ⟨u, hu, ht⟩ := run_succ_eq_next.mp h
    rw [outputWords_succ_of_step hu, List.length_cons, ih ht]

/-- In a run that ends in a state, each cycle starts in a state, whose outputs are the cycle's output word. -/
theorem exists_run_and_outputWords_getElem? {n : Nat} {s t : State} (h : run n s = .next t) {k : Nat} (hk : k < n) :
    ∃ u, run k s = .next u ∧ (outputWords n s)[k]? = some u.output.toWord := by
  induction n generalizing s k with
  | zero => exact absurd hk (Nat.not_lt_zero k)
  | succ n ih =>
    obtain ⟨v, hv, ht⟩ := run_succ_eq_next.mp h
    rw [outputWords_succ_of_step hv]
    cases k with
    | zero => exact ⟨s, rfl, rfl⟩
    | succ k =>
      obtain ⟨u, hu, hword⟩ := ih ht (Nat.lt_of_succ_lt_succ hk)
      exact ⟨u, run_succ_eq_next.mpr ⟨v, hv, hu⟩, hword⟩

theorem input_of_run_of_getElem? {k : Nat} {s u : State} {i : Input} (h : run k s = .next u)
    (hi : s.inputs[k]? = some i) : u.input = i :=
  (inputAt_of_run h 0).trans (State.inputAt_of_getElem? hi)

/-- Settles O27: cycle by cycle, the output word of the state before it under the trace's input. -/
theorem traceResult : Obligations.TraceResult := by
  intro c start ws t h
  refine ⟨h, outputWords_length_of_run h, fun k w hw => ?_⟩
  obtain ⟨u, hu, hword⟩ := exists_run_and_outputWords_getElem? h (List.getElem?_eq_some_iff.mp hw).1
  exact ⟨u, hu, input_of_run_of_getElem? hu (by simp [hw]), hword⟩

/-! The reserved mode (R83). -/

/-- A cycle without reset faults exactly where either agent's operation has no next registers. -/
theorem step_eq_fault_iff {s : State} (hc : s.cfg.WellFormed) (hl : s.Legal) (hr : s.input.rst = false) :
    step s = .fault .reservedMode ↔ samplerNext s = none ∨ pulseNext s = none := by
  rw [step_of_not_rst hc hl hr]
  rcases samplerNext s with _ | a
  · simp
  · cases pulseNext s <;> simp

/-- A cycle that nothing refuses goes on unless it faults for the reserved mode. -/
theorem step_eq_next_or_fault {s : State} (hc : s.cfg.WellFormed) (hl : s.Legal) (hr : s.input.rst = false) :
    (∃ t, step s = .next t) ∨ step s = .fault .reservedMode := by
  rw [step_of_not_rst hc hl hr]
  cases samplerNext s <;> cases pulseNext s <;> simp

/-- In mode 3 no cycle without reset changes the mode: the release edge, which would, has no next mode. -/
theorem mode_eq_three_of_step {s t : State} (h : step s = .next t) (hr : s.input.rst = false) (hm : s.smp.mode = 3) :
    t.smp.mode = 3 := by
  by_contra hne
  obtain ⟨hp, hprev, hbutton, -⟩ := modeRule.1 s t h hr (hm ▸ hne)
  obtain ⟨-, ⟨hr', -⟩ | ⟨-, -, a, b, ha, -⟩⟩ := step_eq_next h
  · simp [hr] at hr'
  · simp [samplerNext_eq_none.mpr ⟨hp, hprev, hbutton, hm⟩] at ha

/-- Settles O41: the faults are the missing next registers of either agent, and the refused states are not `Legal`. -/
theorem reservedModeFaults : Obligations.ReservedModeFaults := by
  refine ⟨fun s hc hl hr hm => ?_, fun s hc hr hill => step_of_illFormedState hc hr ?_⟩
  · have hfault := step_eq_fault_iff hc hl hr
    simp only [samplerNext_eq_none, pulseNext_eq_none, hm, and_true, or_comm] at hfault
    refine ⟨hfault.mpr, fun hquiet => ?_⟩
    obtain ⟨t, ht⟩ | hf := step_eq_next_or_fault hc hl hr
    · exact ⟨t, ht, mode_eq_three_of_step ht hr hm⟩
    · exact absurd (hfault.mp hf) hquiet
  · rintro ⟨htcnt, hline, -⟩
    obtain hover | ⟨hq, hw⟩ := hill
    · exact absurd htcnt (Nat.not_le.mpr hover)
    · exact absurd (hline hq).1 (by simp [hw])

/-! The placed selector (log 12). -/

/-- A selector of the Pulse Generator, bit by bit as R79 builds it. -/
theorem selector_eq_of_bit4 : ∀ w : Selector, w.getLsbD 4 = true → w.getLsbD 0 = false →
    (BitVec.ofBool (w.getLsbD 5) ++ 1#1 ++ BitVec.ofBool (w.getLsbD 3) ++ BitVec.ofBool (w.getLsbD 2) ++
      BitVec.ofBool (w.getLsbD 1) ++ 0#1 : BitVec (1 + 1 + 1 + 1 + 1 + 1)) = w := by decide

/-- A selector of the Sampler that R79 can produce, bit by bit. -/
theorem selector_eq_of_not_bit4 : ∀ w : Selector, w.getLsbD 4 = false → w.getLsbD 1 = false → w.getLsbD 0 = false →
    (BitVec.ofBool (w.getLsbD 5) ++ 0#1 ++ BitVec.ofBool (w.getLsbD 3) ++ BitVec.ofBool (w.getLsbD 2) ++ 0b00#2 :
      BitVec (1 + 1 + 1 + 1 + 2)) = w := by decide

/-- The word of a selector is placed as that selector. -/
theorem withFetchWord_toNat (s : State) (w : Selector) : s.withFetchWord 6 w.toNat = placeSelector s w := by
  rw [State.withFetchWord, Nat.mod_eq_of_lt w.isLt, BitVec.ofNat_toNat, BitVec.setWidth_eq]

section PlaceSelector
variable (s : State) (w : Selector)

@[simp] theorem placeSelector_cfg : (placeSelector s w).cfg = s.cfg := rfl
@[simp] theorem placeSelector_rst : (placeSelector s w).input.rst = w.getLsbD 5 := rfl
@[simp] theorem placeSelector_adc_done :
    (placeSelector s w).input.adc_done = (!w.getLsbD 4 && w.getLsbD 2) := rfl

@[simp] theorem placeSelector_mode : (placeSelector s w).smp.mode = s.smp.mode := by
  simp only [placeSelector]
  split <;> rfl

end PlaceSelector

section PulseGeneratorSelector
variable {s : State} {w : Selector} (h4 : w.getLsbD 4 = true)
include h4

/-- The tick registers of a placed Pulse Generator selector. -/
theorem placeSelector_pg : (placeSelector s w).pg =
    { tcnt := if w.getLsbD 3 then s.cfg.PERIOD_TICKS - 1 else 0
      pulse_width := (if w.getLsbD 3 then s.cfg.PERIOD_TICKS - 1 else 0) + if w.getLsbD 1 then 1 else 2
      pwm_q := if w.getLsbD 2 then .high else .low
      ovr := s.pg.ovr } := by
  simp only [placeSelector, h4, if_true]
  cases w.getLsbD 1 <;> rfl

theorem ev_placeSelector (hc : s.cfg.WellFormed) : ev (placeSelector s w) = w.getLsbD 3 := by
  obtain ⟨hperiod, -⟩ := hc
  rw [ev, placeSelector_pg h4]
  cases w.getLsbD 3
  · simp
    omega
  · simp

theorem reach_placeSelector : reach (placeSelector s w) = w.getLsbD 1 := by
  rw [reach, placeSelector_pg h4]
  cases w.getLsbD 1 <;> simp

theorem selP_placeSelector (hc : s.cfg.WellFormed) (h0 : w.getLsbD 0 = false) : selP (placeSelector s w) = w := by
  have hline : (placeSelector s w).pg.pwm_q.bit = w.getLsbD 2 := by
    rw [placeSelector_pg h4]
    cases w.getLsbD 2 <;> rfl
  rw [selP, placeSelector_rst, ev_placeSelector h4 hc, hline, reach_placeSelector h4]
  exact selector_eq_of_bit4 w h4 h0

/-- The placed width is at most P + 1 and above the counter. -/
theorem legal_placeSelector (hc : s.cfg.WellFormed) (hfit : s.cfg.PERIOD_TICKS + 1 < 2 ^ nTick s.cfg) :
    (placeSelector s w).Legal := by
  obtain ⟨hperiod, -⟩ := hc
  rw [State.Legal, placeSelector_pg h4, placeSelector_cfg]
  have htick : (if w.getLsbD 3 then s.cfg.PERIOD_TICKS - 1 else 0) ≤ s.cfg.PERIOD_TICKS - 1 := by split <;> simp
  have hbeyond : 1 ≤ (if w.getLsbD 1 then 1 else 2) ∧ (if w.getLsbD 1 then 1 else 2) ≤ 2 := by split <;> simp
  exact ⟨htick, fun _ => ⟨by dsimp only; omega, by dsimp only; omega⟩, by dsimp only; omega⟩

end PulseGeneratorSelector

section SamplerSelector
variable {s : State} {w : Selector} (h4 : w.getLsbD 4 = false)
include h4

theorem selS_placeSelector (h1 : w.getLsbD 1 = false) (h0 : w.getLsbD 0 = false) : selS (placeSelector s w) = w := by
  have hphase : (placeSelector s w).smp.smp_state.bit = w.getLsbD 3 := by
    simp only [placeSelector, h4, Bool.false_eq_true, if_false]
    cases w.getLsbD 3 <;> rfl
  rw [selS, placeSelector_rst, hphase, placeSelector_adc_done, h4, Bool.not_false, Bool.true_and]
  exact selector_eq_of_not_bit4 w h4 h1 h0

/-- A Sampler selector leaves the tick registers. -/
theorem placeSelector_pg_of_sampler : (placeSelector s w).pg = s.pg := by
  rw [placeSelector, h4]
  rfl

end SamplerSelector

/-- Whatever the Sampler's operation does in the cycle, a fault of the Pulse Generator's is the step's. -/
theorem step_fault_of_exec_pulseOp {s : State} {r : Fault} (hc : s.cfg.WellFormed) (hl : s.Legal)
    (h : exec (pulseOp s) s = .fault r) : step s = .fault r := by
  rcases hr : s.input.rst with _ | _
  · rw [exec_pulseOp hr] at h
    rcases hb : pulseNext s with _ | b
    · rw [hb] at h
      cases h
      exact (step_eq_fault_iff hc hl hr).mpr (.inr hb)
    · simp [hb] at h
  · simp [(exec_reset_ops hr).2, execReset] at h

/-- A step to a next state is the join of the next states of the two agents' operations. -/
theorem exists_exec_of_step {s t : State} {i j : Instr} (hc : s.cfg.WellFormed) (hl : s.input.rst = true ∨ s.Legal)
    (hi : decode (selS s) = .ok i) (hj : decode (selP s) = .ok j) (h : step s = .next t) :
    ∃ a b, exec i s = .next a ∧ exec j s = .next b ∧ t.smp = a.smp ∧ t.pg = b.pg := by
  rw [step_eq_joinAgents hc hl hi hj] at h
  obtain ⟨a, b, ha, hb, rfl⟩ := joinAgents_eq_next.mp h
  exact ⟨a, b, ha, hb, rfl, rfl⟩

/-- A cycle that nothing refuses answers a next state where the mode is legal. -/
theorem exists_step_of_rst_or_legal {s : State} (hc : s.cfg.WellFormed) (hl : s.input.rst = true ∨ s.Legal)
    (hm : s.smp.mode ≠ 3) : ∃ t, step s = .next t := by
  obtain hr | hl := hl
  · exact ⟨_, step_of_rst hc hr⟩
  · exact exists_step hc hl hm

/-- Settles O60: the placed state computes the selector bit by bit, and the step joins its operation with the other
agent's. -/
theorem placedSelectorIsPerformed : Obligations.PlacedSelectorIsPerformed := by
  rintro s p w i hi hc hfit rfl
  rw [withFetchWord_toNat]
  have hcfg : (placeSelector s w).cfg.WellFormed := hc
  have h0 : w.getLsbD 0 = false := Bool.eq_false_iff.mpr fun h => (row_of_decode hi).1 (.inl h)
  constructor
  · intro h4
    have hsel := selP_placeSelector h4 hc h0
    have hlegal := legal_placeSelector h4 hc hfit
    have hj : decode (selP (placeSelector s w)) = .ok i := hsel.symm ▸ hi
    obtain rfl : pulseOp (placeSelector s w) = i := Except.ok.inj ((decode_selP _).symm.trans hj)
    refine ⟨hsel, hlegal, fun r => step_fault_of_exec_pulseOp hcfg hlegal, fun hm => ?_⟩
    obtain ⟨t, ht⟩ := exists_step hcfg hlegal (placeSelector_mode s w ▸ hm)
    obtain ⟨a, b, -, hb, -, hpg⟩ := exists_exec_of_step hcfg (.inr hlegal) (decode_selS _) hj ht
    exact ⟨t, b, ht, hb, hpg⟩
  · intro h4 h1
    have hsel := selS_placeSelector (s := s) h4 h1 h0
    have hi' : decode (selS (placeSelector s w)) = .ok i := hsel.symm ▸ hi
    have hlegal (hl : s.Legal) : (placeSelector s w).Legal := by
      rwa [State.Legal, placeSelector_pg_of_sampler h4]
    refine ⟨hsel, hlegal, fun hl => ?_⟩
    have hgo : (placeSelector s w).input.rst = true ∨ (placeSelector s w).Legal := hl.imp id hlegal
    obtain ⟨-, hfault, -⟩ := stepRunsTheDecodedOperations _ _ _ hcfg hgo hi' (decode_selP _)
    refine ⟨hfault, fun hm => ?_⟩
    obtain ⟨t, ht⟩ := exists_step_of_rst_or_legal hcfg hgo (placeSelector_mode s w ▸ hm)
    obtain ⟨a, b, ha, -, hsmp, -⟩ := exists_exec_of_step hcfg hgo hi' (decode_selP _) ht
    exact ⟨t, a, ht, ha, hsmp⟩

end Sys2Proof.Machine
end

section
/-! SUPPORT. The proofs of the statements about the Sampler (spec/40_sampler_mode.md): the three operations, and the
iteration they make up. -/

namespace Sys2Proof.Machine

/-! The Sampler's selectors (R79, R80). -/

/-- A well-formed operation's only selector is the one it encodes to. -/
theorem decode_eq_ok_iff {w : Selector} {i : Instr} (hi : i.wellFormed = true) : decode w = .ok i ↔ encode i = w :=
  ⟨fun h => (encode_of_decode h).1, fun h => h ▸ decode_encode hi⟩

theorem decode_selS_eq_smpWait {s : State} : decode (selS s) = .ok .smpWait ↔
    s.input.rst = false ∧ s.smp.smp_state = .wait ∧ s.input.adc_done = false := by
  rw [decode_selS, samplerOp]
  split <;> simp_all

/-! The mode that SMP_ISSUE leaves (R101, R102, R103). -/

/-- Settles O11: the mode advance by its three legal codes. -/
theorem releaseEdgeAndModeAdvance : Obligations.ReleaseEdgeAndModeAdvance := by
  refine ⟨fun prev b => releaseEdge_eq_true, rfl, rfl, rfl, rfl, fun m hm => ?_⟩
  rw [nextMode_of_le (mode_ne_three_iff.mp hm), Option.map_some, BitVec.toNat_ofNat]
  congr 1
  omega

theorem modeAfterSample_eq_none {s : State} : modeAfterSample s = none ↔
    s.smp.prev_button_state = true ∧ s.input.button_in = false ∧ s.smp.mode = 3 := by
  unfold modeAfterSample
  split
  · rename_i hedge
    simp [nextMode_eq_none, releaseEdge_eq_true.mp hedge]
  · rename_i hedge
    rw [releaseEdge_eq_true] at hedge
    simp only [reduceCtorEq, false_iff]
    tauto

/-- The mode after a button sample that raises no fault. -/
theorem modeAfterSample_eq_some {s : State}
    (h : ¬ (s.smp.prev_button_state = true ∧ s.input.button_in = false ∧ s.smp.mode = 3)) :
    modeAfterSample s = some (if s.smp.prev_button_state = true ∧ s.input.button_in = false then
      BitVec.ofNat 2 ((s.smp.mode.toNat + 1) % 3) else s.smp.mode) := by
  rw [modeAfterSample]
  by_cases hedge : s.smp.prev_button_state = true ∧ s.input.button_in = false
  · have hm : s.smp.mode ≠ 3 := fun hm => h ⟨hedge.1, hedge.2, hm⟩
    rw [if_pos (releaseEdge_eq_true.mpr hedge), if_pos hedge, nextMode_of_le (mode_ne_three_iff.mp hm)]
  · rw [if_neg (mt releaseEdge_eq_true.mp hedge), if_neg hedge]

/-- A legal mode goes on by one step, modulo three, at a release edge, and else stays. -/
theorem toNat_modeAfterSample {s : State} {m : ModeBits} (hlegal : s.smp.mode.toNat ≤ 2)
    (h : modeAfterSample s = some m) : m.toNat =
      (s.smp.mode.toNat + if s.smp.prev_button_state = true ∧ s.input.button_in = false then 1 else 0) % 3 := by
  by_cases hedge : s.smp.prev_button_state = true ∧ s.input.button_in = false
  · rw [modeAfterSample, if_pos (releaseEdge_eq_true.mpr hedge)] at h
    rw [if_pos hedge]
    exact (nextMode_eq_some h).2.2
  · rw [modeAfterSample, if_neg (mt releaseEdge_eq_true.mp hedge)] at h
    rw [if_neg hedge, ← Option.some.inj h]
    omega

/-! The Sampler's three operations (R103 to R105). -/

theorem exec_smpIssue_of_none {d : Bool} {s : State} (h : modeAfterSample s = none) :
    exec (.smpIssue d) s = .fault .reservedMode := by
  rw [modeAfterSample] at h
  simp only [exec, execSmpIssue, h]

theorem exec_smpIssue_of_some {d : Bool} {s : State} {m : ModeBits} (h : modeAfterSample s = some m) :
    exec (.smpIssue d) s =
      .next { s with smp := ⟨s.smp.raw_sample, m, s.input.button_in, s.input.button_in, .wait⟩ } := by
  rw [modeAfterSample] at h
  simp only [exec, execSmpIssue, h]

/-- SMP_ISSUE's next state, and with it the frame: only Sampler registers differ, and `raw_sample` does not. -/
theorem exec_smpIssue_eq_next {d : Bool} {s t : State} : exec (.smpIssue d) s = .next t ↔
    ∃ m, modeAfterSample s = some m ∧
      t = { s with smp := ⟨s.smp.raw_sample, m, s.input.button_in, s.input.button_in, .wait⟩ } := by
  rcases hm : modeAfterSample s with _ | m
  · simp [exec_smpIssue_of_none hm]
  · simp [exec_smpIssue_of_some hm, eq_comm]

/-- Settles O3: the fault is the missing mode of `modeAfterSample_eq_none`, the effect `exec_smpIssue_of_some`. -/
theorem smpIssueFollowsItsRule : Obligations.SmpIssueFollowsItsRule := by
  refine ⟨fun w => ?_, fun s => decode_selS_eq_smpIssue,
    fun d s h => exec_smpIssue_of_some (modeAfterSample_eq_some h),
    fun d s hprev hbutton hm => exec_smpIssue_of_none (modeAfterSample_eq_none.mpr ⟨hprev, hbutton, hm⟩),
    fun s hr hp => adc_start_eq_true.mpr ⟨hp, hr⟩⟩
  have hrow : ∀ w : Selector, (w &&& 0x3B) = 0x00 ↔ ∃ d, encode (.smpIssue d) = w := by decide
  rw [hrow]
  exact exists_congr fun d => (decode_eq_ok_iff rfl).symm

/-- The Sampler's registers after an SMP_ISSUE cycle. -/
theorem smp_of_step_of_issue {s t : State} (h : step s = .next t) (hr : s.input.rst = false)
    (hp : s.smp.smp_state = .issue) : ∃ m, modeAfterSample s = some m ∧
      t.smp = ⟨s.smp.raw_sample, m, s.input.button_in, s.input.button_in, .wait⟩ := by
  rcases smp_cases_of_step h with ⟨hr', -⟩ | ⟨-, -, hissue⟩ | ⟨-, hp', -⟩ | ⟨-, hp', -⟩
  · simp [hr] at hr'
  · exact hissue
  · simp [hp] at hp'
  · simp [hp] at hp'

theorem smp_of_step_of_wait {s t : State} (h : step s = .next t) (hr : s.input.rst = false)
    (hp : s.smp.smp_state = .wait) (hd : s.input.adc_done = false) : t.smp = s.smp := by
  rcases smp_cases_of_step h with ⟨hr', -⟩ | ⟨-, hp', -⟩ | ⟨-, -, hd', -⟩ | ⟨-, -, -, hwait⟩
  · simp [hr] at hr'
  · simp [hp] at hp'
  · simp [hd] at hd'
  · exact hwait

theorem smp_of_step_of_latch {s t : State} (h : step s = .next t) (hr : s.input.rst = false)
    (hp : s.smp.smp_state = .wait) (hd : s.input.adc_done = true) :
    t.smp = { s.smp with raw_sample := s.input.adc_result, smp_state := .issue } := by
  rcases smp_cases_of_step h with ⟨hr', -⟩ | ⟨-, hp', -⟩ | ⟨-, -, -, hlatch⟩ | ⟨-, -, hd', -⟩
  · simp [hr] at hr'
  · simp [hp] at hp'
  · exact hlatch
  · simp [hd] at hd'

/-- Settles O4: one selector, and the Sampler's fourth case of a step. -/
theorem smpWaitFollowsItsRule : Obligations.SmpWaitFollowsItsRule := by
  refine ⟨fun w => ?_, fun s => decode_selS_eq_smpWait, fun s => rfl, fun s hp => ?_, fun s t hop h => ?_⟩
  · have hrow : ∀ w : Selector, (w &&& 0x3F) = 0x08 ↔ encode .smpWait = w := by decide
    rw [hrow, decode_eq_ok_iff rfl]
  · rw [Bool.eq_false_iff, ne_eq, adc_start_eq_true]
    simp [hp]
  · obtain ⟨hr, hp, hd⟩ := decode_selS_eq_smpWait.mp hop
    exact smp_of_step_of_wait h hr hp hd

/-- Settles O5: one selector, the Sampler's third case of a step, and the fire's width from the pre-edge registers. -/
theorem smpLatchFollowsItsRule : Obligations.SmpLatchFollowsItsRule := by
  refine ⟨fun w => ?_, fun s => decode_selS_eq_smpLatch, fun s => rfl, fun s t hop hf h => ⟨?_, hf.width_of_step h⟩⟩
  · have hrow : ∀ w : Selector, (w &&& 0x3F) = 0x0C ↔ encode .smpLatch = w := by decide
    rw [hrow, decode_eq_ok_iff rfl]
  · obtain ⟨hr, hp, hd⟩ := decode_selS_eq_smpLatch.mp hop
    rw [smp_of_step_of_latch h hr hp hd]

/-- Settles O38: each operation's next state is the old one with registers replaced. -/
theorem samplerOperationsFrame : Obligations.SamplerOperationsFrame := by
  refine ⟨fun d s t h => ?_, fun s t h => ?_, fun s t h => ?_, fun x s t h => ?_⟩
  · obtain ⟨m, -, rfl⟩ := exec_smpIssue_eq_next.mp h
    exact ⟨rfl, rfl, rfl, rfl, rfl⟩
  · cases h
    rfl
  · cases h
    exact ⟨rfl, rfl, rfl, rfl, rfl, rfl, rfl⟩
  · cases h
    exact ⟨rfl, rfl, rfl⟩

/-! Runs from a state of the invariant: they go on, and the period with them. -/

theorem State.Inv.legal {s : State} (h : s.Inv) : s.Legal :=
  ⟨h.tcnt_range, h.pulse_in_progress, h.pulse_width_lt_period.trans_le (period_le_two_pow_nTick s.cfg)⟩

theorem exists_step_of_inv {s : State} (h : s.Inv) : ∃ t, step s = .next t :=
  exists_step h.config h.legal (mode_ne_three_iff.mpr h.mode_legal)

theorem exists_run_of_inv {s : State} (h : s.Inv) (n : Nat) : ∃ t, run n s = .next t := by
  induction n with
  | zero => exact ⟨s, rfl⟩
  | succ n ih =>
    obtain ⟨t, ht⟩ := ih
    obtain ⟨u, hu⟩ := exists_step_of_inv (h.run ht)
    exact ⟨u, run_succ_last.mpr ⟨t, ht, hu⟩⟩

/-- A run begun with another run. -/
theorem run_add_of_run {m : Nat} {s t : State} (h : run m s = .next t) (n : Nat) : run (m + n) s = run n t := by
  induction m generalizing s with
  | zero => cases h; rw [Nat.zero_add]
  | succ m ih =>
    obtain ⟨u, hu, ht⟩ := run_succ_eq_next.mp h
    rw [Nat.succ_add, run_succ_of_step hu, ih ht]

theorem input_of_run {n : Nat} {s t : State} (h : run n s = .next t) : t.input = s.inputAt n := inputAt_of_run h 0

theorem inputs_of_run {n : Nat} {s t : State} (h : run n s = .next t) : t.inputs = s.inputs.drop n := by
  induction n generalizing s with
  | zero => cases h; rfl
  | succ n ih =>
    obtain ⟨u, hu, ht⟩ := run_succ_eq_next.mp h
    rw [ih ht, inputs_of_step hu, List.drop_tail]

theorem State.NoReset.mono {s : State} {m n : Nat} (h : s.NoReset n) (hmn : m ≤ n) : s.NoReset m :=
  fun k hk => h k (hk.trans_le hmn)

theorem State.AdcSilent.mono {s : State} {m n : Nat} (h : s.AdcSilent n) (hmn : m ≤ n) : s.AdcSilent m :=
  fun k hk => h k (hk.trans_le hmn)

/-- The counter goes on modulo P (R132). -/
theorem tcnt_of_step {s t : State} (hi : s.Inv) (h : step s = .next t) (hr : s.input.rst = false) :
    t.pg.tcnt = (s.pg.tcnt + 1) % s.cfg.PERIOD_TICKS := by
  have hlt := hi.tcnt_lt_period
  rcases pg_cases_of_step h with ⟨hr', -⟩ | ⟨-, hlast, w, -, ht⟩ | ⟨-, hcount, ht⟩
  · simp [hr] at hr'
  · have hwrap : s.pg.tcnt + 1 = s.cfg.PERIOD_TICKS := by omega
    rw [ht, hwrap, Nat.mod_self]
  · rw [ht, Nat.mod_eq_of_lt (by omega)]

theorem tcnt_of_run {n : Nat} {s t : State} (hi : s.Inv) (h : run n s = .next t) (hr : s.NoReset n) :
    t.pg.tcnt = (s.pg.tcnt + n) % s.cfg.PERIOD_TICKS := by
  induction n generalizing t with
  | zero => cases h; exact (Nat.mod_eq_of_lt hi.tcnt_lt_period).symm
  | succ n ih =>
    obtain ⟨u, hu, ht⟩ := run_succ_last.mp h
    rw [tcnt_of_step (hi.run hu) ht (input_of_run hu ▸ hr n n.lt_succ_self), cfg_of_run hu,
      ih hu (hr.mono n.le_succ), Nat.mod_add_mod, Nat.add_assoc]

/-! A conversion in progress: every cycle is an SMP_WAIT (R104, R109). -/

theorem smp_of_run_of_silent {n : Nat} {s t : State} (h : run n s = .next t) (hp : s.smp.smp_state = .wait)
    (hr : s.NoReset n) (hs : s.AdcSilent n) : t.smp = s.smp := by
  induction n generalizing t with
  | zero => cases h; rfl
  | succ n ih =>
    obtain ⟨u, hu, ht⟩ := run_succ_last.mp h
    have hkept : u.smp = s.smp := ih hu (hr.mono n.le_succ) (hs.mono n.le_succ)
    have hinput := input_of_run hu
    rw [← hkept]
    exact smp_of_step_of_wait ht (hinput ▸ hr n n.lt_succ_self) (hkept ▸ hp) (hinput ▸ hs n n.lt_succ_self)

/-- Settles O53: the Sampler by `smp_of_run_of_silent`, the counter by `tcnt_of_run`. -/
theorem stallFreezesTheSampler : Obligations.StallFreezesTheSampler := by
  intro s n hi hp hr hs
  obtain ⟨t, ht⟩ := exists_run_of_inv hi n
  exact ⟨t, ht, smp_of_run_of_silent ht hp hr hs, tcnt_of_run hi ht hr⟩

/-! One iteration (R106): SMP_ISSUE, the SMP_WAIT cycles, SMP_LATCH. -/

section Iteration
variable {s t u : State} {k : Nat} {v : Sample} (hp : s.smp.smp_state = .issue) (hr : s.NoReset (k + 1))
  (ha : s.AdcAnswers k v) (ht : step s = .next t)
include hp hr ha ht

/-- Up to its completion a conversion leaves the Sampler as SMP_ISSUE left it. -/
theorem smp_during_conversion {j : Nat} (hj : 1 ≤ j) (hjk : j ≤ k) (hu : run j s = .next u) : u.smp = t.smp := by
  obtain ⟨-, hsilent, -, -⟩ := ha
  obtain ⟨i, rfl⟩ := Nat.exists_eq_add_of_le' hj
  rw [run_succ_of_step ht] at hu
  have hwait : t.smp.smp_state = .wait := by
    obtain ⟨m, -, hsmp⟩ := smp_of_step_of_issue ht (hr 0 k.succ_pos) hp
    rw [hsmp]
  refine smp_of_run_of_silent hu hwait (fun n hn => ?_) (fun n hn => ?_)
  · rw [inputAt_of_step ht]
    exact hr (n + 1) (by omega)
  · rw [inputAt_of_step ht]
    exact hsilent (n + 1) (by omega) (by omega)

theorem wait_during_conversion {j : Nat} (hj : 1 ≤ j) (hjk : j ≤ k) (hu : run j s = .next u) :
    u.smp.smp_state = .wait := by
  obtain ⟨m, -, hsmp⟩ := smp_of_step_of_issue ht (hr 0 k.succ_pos) hp
  rw [smp_during_conversion hp hr ha ht hj hjk hu, hsmp]

/-- The completion's cycle latches the result and ends the iteration. -/
theorem smp_after_iteration (hu : run (k + 1) s = .next u) :
    u.smp = { t.smp with raw_sample := v, smp_state := .issue } := by
  have ⟨hk, _, hdone, hresult⟩ := ha
  obtain ⟨x, hx, hu⟩ := run_succ_last.mp hu
  have hinput := input_of_run hx
  rw [smp_of_step_of_latch hu (hinput ▸ hr k k.lt_succ_self) (wait_during_conversion hp hr ha ht hk le_rfl hx)
    (hinput ▸ hdone), smp_during_conversion hp hr ha ht hk le_rfl hx, hinput, hresult]

end Iteration

/-- Settles O52: the cycles of the conversion by `smp_during_conversion`, the one after it by `smp_after_iteration`. -/
theorem iterationTiming : Obligations.IterationTiming := by
  intro s k v hi hp hr ha
  have ⟨hk, hsilent, hdone, _⟩ := ha
  obtain ⟨t, ht⟩ := exists_step_of_inv hi
  obtain ⟨m, -, hsmp⟩ := smp_of_step_of_issue ht (hr 0 k.succ_pos) hp
  refine ⟨decode_selS_eq_smpIssue.mpr ⟨hr 0 k.succ_pos, hp⟩, fun j hj hjk => ?_, ?_, ?_,
    t, run_succ_of_step ht 0, fun j u hj hjk hu => ?_⟩
  · obtain ⟨u, hu⟩ := exists_run_of_inv hi j
    have hinput := input_of_run hu
    exact ⟨u, hu, decode_selS_eq_smpWait.mpr ⟨hinput ▸ hr j (by omega),
      wait_during_conversion hp hr ha ht hj hjk.le hu, hinput ▸ hsilent j hj hjk⟩⟩
  · obtain ⟨u, hu⟩ := exists_run_of_inv hi k
    have hinput := input_of_run hu
    refine ⟨u, hu, decode_selS_eq_smpLatch.mpr ⟨hinput ▸ hr k k.lt_succ_self,
      wait_during_conversion hp hr ha ht hk le_rfl hu, hinput ▸ hdone⟩, ?_⟩
    rw [smp_during_conversion hp hr ha ht hk le_rfl hu, hsmp]
  · obtain ⟨u, hu⟩ := exists_run_of_inv hi (k + 1)
    have hafter := smp_after_iteration hp hr ha ht hu
    exact ⟨u, hu, by rw [hafter], by rw [hafter], by rw [hafter, hsmp]⟩
  · obtain hjk | rfl := Nat.le_succ_iff.mp hjk
    · rw [smp_during_conversion hp hr ha ht hj hjk hu]
    · rw [smp_after_iteration hp hr ha ht hu]

/-! Iterations one after the other (R107). -/

theorem State.inputAt_of_inputs_append {s : State} {a b : List Input} (h : s.inputs = a ++ b) {k : Nat}
    (hk : k < a.length) : s.inputAt k = a[k] :=
  State.inputAt_of_getElem? (by rw [h, List.getElem?_append_left hk, List.getElem?_eq_getElem hk])

theorem iterationInputs_singleton (it : Iteration) : iterationInputs [it] = it.first :: (it.waits ++ [it.last]) := rfl

theorem iterationInputs_cons (it : Iteration) (l : List Iteration) :
    iterationInputs (it :: l) = iterationInputs [it] ++ iterationInputs l := by
  simp [iterationInputs]

theorem length_iterationInputs_singleton (it : Iteration) : (iterationInputs [it]).length = it.waits.length + 1 + 1 := by
  simp [iterationInputs]

theorem Iteration.Complete.rst {it : Iteration} (h : it.Complete) : ∀ i ∈ iterationInputs [it], i.rst = false := by
  obtain ⟨hfirst, hwaits, hlast, -⟩ := h
  intro i hi
  simp only [iterationInputs_singleton, List.mem_cons, List.mem_append, List.not_mem_nil, or_false] at hi
  obtain rfl | hi | rfl := hi
  · exact hfirst
  · exact (hwaits i hi).1
  · exact hlast

section ListedIteration
variable {s : State} {it : Iteration} {rest : List Input} (hc : it.Complete)
  (hins : s.inputs = iterationInputs [it] ++ rest)
include hins

theorem input_of_iterationInputs : s.input = it.first :=
  State.inputAt_of_inputs_append hins (k := 0) (by simp [iterationInputs])

include hc

/-- A complete iteration holds no reset. -/
theorem noReset_of_iterationInputs : s.NoReset (it.waits.length + 1 + 1) := by
  intro k hk
  rw [← length_iterationInputs_singleton] at hk
  rw [State.inputAt_of_inputs_append hins hk]
  exact hc.rst _ (List.getElem_mem hk)

/-- A complete iteration is a conversion that completes with its last cycle. -/
theorem adcAnswers_of_iterationInputs : s.AdcAnswers (it.waits.length + 1) it.last.adc_result := by
  obtain ⟨-, hwaits, -, hdone⟩ := hc
  have hlast : s.inputAt (it.waits.length + 1) = it.last := by
    rw [State.inputAt_of_inputs_append hins (by simp [iterationInputs])]
    simp [iterationInputs]
  refine ⟨Nat.le_add_left .., fun j hj hjk => ?_, by rw [hlast, hdone], by rw [hlast]⟩
  obtain ⟨i, rfl⟩ := Nat.exists_eq_add_of_le' hj
  have hi : i < it.waits.length := by omega
  have hwait : s.inputAt (i + 1) = it.waits[i] := by
    rw [State.inputAt_of_inputs_append hins (by simp [iterationInputs]; omega)]
    simp [iterationInputs, hi]
  rw [hwait]
  exact (hwaits _ (List.getElem_mem hi)).2

/-- One complete iteration: a button sample with its mode, and a latched result. -/
theorem exists_run_of_iterationInputs (hi : s.Inv) (hp : s.smp.smp_state = .issue) :
    ∃ t m, run (iterationInputs [it]).length s = .next t ∧ t.inputs = rest ∧ modeAfterSample s = some m ∧
      t.smp = ⟨it.last.adc_result, m, it.first.button_in, it.first.button_in, .issue⟩ := by
  have hr := noReset_of_iterationInputs hc hins
  have ha := adcAnswers_of_iterationInputs hc hins
  obtain ⟨u, hu⟩ := exists_step_of_inv hi
  obtain ⟨m, hm, hsmp⟩ := smp_of_step_of_issue hu (hr 0 (Nat.succ_pos _)) hp
  obtain ⟨t, ht⟩ := exists_run_of_inv hi (it.waits.length + 1 + 1)
  refine ⟨t, m, length_iterationInputs_singleton it ▸ ht, ?_, hm, ?_⟩
  · rw [inputs_of_run ht, hins, ← length_iterationInputs_singleton, List.drop_left]
  · rw [smp_after_iteration hp hr ha hu ht, hsmp, input_of_iterationInputs hins]

end ListedIteration

/-- Over complete iterations the mode counts the sampled releases, modulo three, and the last result is kept (R107). -/
theorem exists_run_of_iterations {s : State} {l : List Iteration} {rest : List Input} (hi : s.Inv)
    (hp : s.smp.smp_state = .issue) (hc : ∀ it ∈ l, it.Complete) (hins : s.inputs = iterationInputs l ++ rest) :
    ∃ t, run (iterationInputs l).length s = .next t ∧ t.smp.smp_state = .issue ∧ t.inputs = rest ∧
      t.smp.mode.toNat = (s.smp.mode.toNat + sampledReleases s.smp.prev_button_state (l.map (·.first.button_in))) % 3 ∧
      t.smp.raw_sample = ((l.getLast?).map (·.last.adc_result)).getD s.smp.raw_sample := by
  induction l generalizing s with
  | nil => exact ⟨s, rfl, hp, hins, (Nat.mod_eq_of_lt (Nat.lt_succ_of_le hi.mode_legal)).symm, rfl⟩
  | cons it l ih =>
    rw [iterationInputs_cons, List.append_assoc] at hins
    obtain ⟨t, m, ht, htins, hm, hsmp⟩ := exists_run_of_iterationInputs (hc it List.mem_cons_self) hins hi hp
    obtain ⟨u, hu, hphase, huins, hmode, hraw⟩ :=
      ih (hi.run ht) (by rw [hsmp]) (fun x hx => hc x (List.mem_cons_of_mem it hx)) htins
    refine ⟨u, ?_, hphase, huins, ?_, ?_⟩
    · rw [iterationInputs_cons, List.length_append, run_add_of_run ht, hu]
    · have hstep := toNat_modeAfterSample hi.mode_legal hm
      rw [input_of_iterationInputs hins] at hstep
      rw [hmode, hsmp, hstep, Nat.mod_add_mod, List.map_cons, sampledReleases, Nat.add_assoc]
    · rw [hraw, hsmp, List.getLast?_cons, Option.map_some, Option.getD_some]
      exact Option.getD_map ..

/-- A button that stays pressed is never released. -/
theorem sampledReleases_replicate_true (prev : Bool) (n : Nat) : sampledReleases prev (List.replicate n true) = 0 := by
  induction n generalizing prev with
  | zero => rfl
  | succ n ih => simp [List.replicate_succ, sampledReleases, ih]

/-- A button that was not pressed is never released. -/
theorem sampledReleases_replicate_false (n : Nat) : sampledReleases false (List.replicate n false) = 0 := by
  induction n with
  | zero => rfl
  | succ n ih => simp [List.replicate_succ, sampledReleases, ih]

/-- Settles O54: `exists_run_of_iterations`, and the source's examples by counting. -/
theorem eachSampledReleaseAdvancesTheMode : Obligations.EachSampledReleaseAdvancesTheMode :=
  ⟨fun _ _ _ => exists_run_of_iterations, rfl, rfl,
    fun n => ⟨sampledReleases_replicate_true false n, sampledReleases_replicate_false n⟩⟩

end Sys2Proof.Machine
end

section
/-! SUPPORT. The proofs of the statements about the Pulse Generator (spec/41_pulse_generator.md): its five operations, and
the period with its fire and its pulse. -/

namespace Sys2Proof.Machine

/-! The Pulse Generator's selectors (R79, R80). -/

/-- An operation with a don't-care bit is decoded from exactly the selectors of its row. -/
theorem masked_eq_iff_exists_decode {mask pattern : Selector} {op : Bool → Instr} (hop : ∀ k, (op k).wellFormed = true)
    (hrow : ∀ w : Selector, (w &&& mask) = pattern ↔ ∃ k, encode (op k) = w) (w : Selector) :
    (w &&& mask) = pattern ↔ ∃ k, decode w = .ok (op k) := by
  rw [hrow]
  exact exists_congr fun k => (decode_eq_ok_iff (hop k)).symm

section SelectedOperation
variable {s : State} {k : Bool}

theorem decode_selP_eq_pgIdle : decode (selP s) = .ok (.pgIdle k) ↔
    s.input.rst = false ∧ ev s = false ∧ s.pg.pwm_q = .low ∧ reach s = k := by
  rw [decode_selP, pulseOp]
  split <;> simp_all

theorem decode_selP_eq_pgHold : decode (selP s) = .ok .pgHold ↔
    s.input.rst = false ∧ ev s = false ∧ s.pg.pwm_q = .high ∧ reach s = false := by
  rw [decode_selP, pulseOp]
  split <;> simp_all

theorem decode_selP_eq_pgEnd : decode (selP s) = .ok .pgEnd ↔
    s.input.rst = false ∧ ev s = false ∧ s.pg.pwm_q = .high ∧ reach s = true := by
  rw [decode_selP, pulseOp]
  split <;> simp_all

theorem decode_selP_eq_pgFire : decode (selP s) = .ok (.pgFire k) ↔
    s.input.rst = false ∧ ev s = true ∧ s.pg.pwm_q = .low ∧ reach s = k := by
  rw [decode_selP, pulseOp]
  split <;> simp_all

theorem decode_selP_eq_pgFireOvr : decode (selP s) = .ok (.pgFireOvr k) ↔
    s.input.rst = false ∧ ev s = true ∧ s.pg.pwm_q = .high ∧ reach s = k := by
  rw [decode_selP, pulseOp]
  split <;> simp_all

end SelectedOperation

/-! The two fires (R138, R139) as the interrupt's entry. -/

theorem exec_pgFire (k : Bool) (s : State) : exec (.pgFire k) s = periodEventEntry s s.pg := rfl

theorem exec_pgFireOvr (k : Bool) (s : State) : exec (.pgFireOvr k) s = periodEventEntry s (setOvr s.pg) := rfl

/-- With a legal mode the entry computes a width and starts the pulse. -/
theorem exists_periodEventEntry {s : State} (p : PulseGen) (hm : s.smp.mode ≠ 3) :
    ∃ w, width s.cfg s.smp.mode s.smp.raw_sample = some w ∧ periodEventEntry s p =
      .next { s with pg := { tcnt := 0, pulse_width := w, pwm_q := if 0 < w then .high else .low, ovr := p.ovr } } := by
  obtain ⟨w, hw⟩ := exists_width (c := s.cfg) s.smp.raw_sample hm
  exact ⟨w, hw, periodEventEntry_eq_next.mpr ⟨w, hw, rfl⟩⟩

/-- In the reserved mode the entry has no width to compute (R134). -/
theorem periodEventEntry_of_mode_three {s : State} (p : PulseGen) (hm : s.smp.mode = 3) :
    periodEventEntry s p = .fault .reservedMode := by
  rw [periodEventEntry, width_eq_none.mpr hm]

/-- Settles O9: the effect and the fault are the interrupt entry's, and the width is at least MIN_PULSE. -/
theorem pgFireFollowsItsRule : Obligations.PgFireFollowsItsRule := by
  refine ⟨masked_eq_iff_exists_decode (fun _ => rfl) (by decide), fun s => ?_,
    fun k s => exists_periodEventEntry s.pg, fun k s => periodEventEntry_of_mode_three s.pg, fun k s t h hzero hc => ?_⟩
  · simp [decode_selP_eq_pgFire]
  · obtain ⟨w, hw, rfl⟩ := periodEventEntry_eq_next.mp h
    obtain ⟨hmin, -⟩ := width_bounds hc hw
    exact Nat.le_zero.mp (hzero ▸ hmin)

/-- Settles O10: the entry with the flag set; in the invariant the line is LOW at the last tick. -/
theorem pgFireOvrFollowsItsRule : Obligations.PgFireOvrFollowsItsRule := by
  refine ⟨masked_eq_iff_exists_decode (fun _ => rfl) (by decide), fun s => ?_,
    fun k s => exists_periodEventEntry (setOvr s.pg), fun k s => periodEventEntry_of_mode_three (setOvr s.pg),
    fun k s hi h => ?_⟩
  · simp [decode_selP_eq_pgFireOvr]
  · obtain ⟨-, hlast, hq, -⟩ := decode_selP_eq_pgFireOvr.mp h
    simp [hi.line_low_at_last_tick (ev_eq_true.mp hlast)] at hq

/-! The three counting operations (R137, R140, R141). -/

/-- Settles O7: one selector, and the counting case of the registers' rule. -/
theorem pgHoldFollowsItsRule : Obligations.PgHoldFollowsItsRule := by
  refine ⟨fun w => ?_, fun s => ?_, fun s => rfl, fun s t hop h => ?_⟩
  · have hrow : ∀ w : Selector, (w &&& 0x3F) = 0x14 ↔ encode .pgHold = w := by decide
    rw [hrow, decode_eq_ok_iff rfl]
  · simp [decode_selP_eq_pgHold]
  · obtain ⟨hr, hcount, hq, hreach⟩ := decode_selP_eq_pgHold.mp hop
    obtain ⟨hw, hline⟩ := (pulseRegistersRule s t h hr).2 (ev_eq_false.mp hcount)
    exact ⟨pwm_out_eq_true.mpr ⟨hq, hr⟩, hline.mpr ⟨hq, reach_eq_false.mp hreach⟩, hw⟩

/-- Settles O8: one selector; in a legal state the counter is below the width, so reaching it is meeting it. -/
theorem pgEndFollowsItsRule : Obligations.PgEndFollowsItsRule := by
  refine ⟨fun w => ?_, fun s => ?_, fun s => rfl, fun s hl hop => ?_⟩
  · have hrow : ∀ w : Selector, (w &&& 0x3F) = 0x16 ↔ encode .pgEnd = w := by decide
    rw [hrow, decode_eq_ok_iff rfl]
  · simp [decode_selP_eq_pgEnd]
  · obtain ⟨-, -, hq, hreach⟩ := decode_selP_eq_pgEnd.mp hop
    obtain ⟨-, hline, -⟩ := hl
    exact le_antisymm (hline hq).2 (reach_eq_true.mp hreach)

/-- Settles O39: each operation's next state is the old one with Pulse Generator registers replaced. -/
theorem pulseGeneratorOperationsFrame : Obligations.PulseGeneratorOperationsFrame := by
  refine ⟨?_, fun s t h => ?_, fun k s t h => ?_, fun k s t h => ?_⟩
  · rintro i s t (⟨k, rfl⟩ | rfl) h <;> cases h <;> exact ⟨rfl, rfl, rfl, rfl, rfl, rfl, rfl⟩
  · cases h
    exact ⟨rfl, rfl, rfl, rfl, rfl, rfl⟩
  · obtain ⟨w, -, rfl⟩ := periodEventEntry_eq_next.mp h
    exact ⟨rfl, rfl, rfl, rfl, rfl⟩
  · obtain ⟨w, -, rfl⟩ := periodEventEntry_eq_next.mp h
    exact ⟨rfl, rfl, rfl, rfl⟩

/-! The period (R131, R132). -/

/-- Settles O31: the counter by the Pulse Generator's cases, its bound from that of the legal state before. -/
theorem tickCounterRule : Obligations.TickCounterRule := by
  intro s t hr h
  obtain ⟨-, ⟨hr', -⟩ | ⟨-, ⟨hrange, -⟩, -⟩⟩ := step_eq_next h
  · simp [hr] at hr'
  · rcases pg_cases_of_step h with ⟨hr', -⟩ | ⟨-, hlast, w, -, ht⟩ | ⟨-, hcount, ht⟩
    · simp [hr] at hr'
    · simp [ht, hlast]
    · simp only [ht, if_neg hcount, true_and]
      omega

/-- From the invariant, a cycle of a run fires exactly where the counter has come to the last tick. -/
theorem fires_of_run_iff {n : Nat} {s t : State} (hi : s.Inv) (h : run n s = .next t) (hr : s.NoReset (n + 1)) :
    t.Fires ↔ (s.pg.tcnt + n) % s.cfg.PERIOD_TICKS = s.cfg.PERIOD_TICKS - 1 := by
  have hrst : t.input.rst = false := input_of_run h ▸ hr n n.lt_succ_self
  rw [fires_iff, tcnt_of_run hi h (hr.mono n.le_succ), cfg_of_run h]
  simp [hrst]

/-- Among P cycles in a row one comes to the last tick. -/
theorem add_mod_eq_pred_iff {a j p : Nat} (ha : a < p) (hj : j < p) : (a + j) % p = p - 1 ↔ j = p - 1 - a := by
  obtain hlt | hge := Nat.lt_or_ge (a + j) p
  · rw [Nat.mod_eq_of_lt hlt]
    omega
  · rw [Nat.mod_eq_sub_mod hge, Nat.mod_eq_of_lt (by omega)]
    omega

/-- Of the P cycles from a state of the invariant, the one that fires is P − 1 − `tcnt` cycles on. -/
theorem fires_within_period_iff {j : Nat} {s t : State} (hi : s.Inv) (hr : s.NoReset s.cfg.PERIOD_TICKS)
    (hj : j < s.cfg.PERIOD_TICKS) (h : run j s = .next t) : t.Fires ↔ j = s.cfg.PERIOD_TICKS - 1 - s.pg.tcnt := by
  rw [fires_of_run_iff hi h (hr.mono hj), add_mod_eq_pred_iff hi.tcnt_lt_period hj]

/-- Settles O47: the runs exist by the invariant, and `fires_within_period_iff` names the cycle that fires. -/
theorem oneFirePerPeriod : Obligations.OneFirePerPeriod := by
  refine ⟨fun s => fires_iff, fun s hi hr => ?_, fun c ins hc hr j hj => ?_⟩
  · have hlt : s.cfg.PERIOD_TICKS - 1 - s.pg.tcnt < s.cfg.PERIOD_TICKS := by
      have := hi.tcnt_lt_period
      omega
    obtain ⟨t, ht⟩ := exists_run_of_inv hi (s.cfg.PERIOD_TICKS - 1 - s.pg.tcnt)
    exact ⟨_, hlt, ⟨t, ht, (fires_within_period_iff hi hr hlt ht).mpr rfl⟩,
      fun j u hj hu => (fires_within_period_iff hi hr hj hu).mp⟩
  · have hi := inv_resetWith ins hc
    obtain ⟨t, ht⟩ := exists_run_of_inv hi j
    exact ⟨t, ht, fires_within_period_iff hi hr hj ht⟩

/-! The pulse between two fires (R137, R142). -/

/-- Up to the last tick of a period the counter counts, the width stays, and the line falls where the counter reaches the
width. -/
theorem pg_of_run_within_period {n : Nat} {s t : State} (hi : s.Inv) (hr : s.NoReset n)
    (hn : s.pg.tcnt + n ≤ s.cfg.PERIOD_TICKS - 1) (h : run n s = .next t) :
    t.pg.tcnt = s.pg.tcnt + n ∧ t.pg.pulse_width = s.pg.pulse_width ∧
      (t.pg.pwm_q = .high ↔ s.pg.pwm_q = .high ∧ s.pg.tcnt + n < s.pg.pulse_width) := by
  induction n generalizing t with
  | zero =>
    cases h
    exact ⟨rfl, rfl, fun hq => ⟨hq, (hi.pulse_in_progress hq).2⟩, And.left⟩
  | succ n ih =>
    obtain ⟨u, hu, ht⟩ := run_succ_last.mp h
    obtain ⟨htcnt, hwidth, hline⟩ := ih (hr.mono n.le_succ) (by omega) hu
    have hrst : u.input.rst = false := input_of_run hu ▸ hr n n.lt_succ_self
    have hcount : u.pg.tcnt ≠ u.cfg.PERIOD_TICKS - 1 := by
      rw [htcnt, cfg_of_run hu]
      omega
    obtain ⟨hwidth', hline'⟩ := (pulseRegistersRule u t ht hrst).2 hcount
    refine ⟨?_, hwidth'.trans hwidth, ?_⟩
    · rw [(tickCounterRule u t hrst ht).1, if_neg hcount, htcnt, Nat.add_assoc]
    · rw [hline', hline, htcnt, hwidth, and_assoc]
      exact and_congr_right fun _ => by omega

/-- Settles O6: a line that is LOW stays LOW up to the period's last tick. -/
theorem pgIdleFollowsItsRule : Obligations.PgIdleFollowsItsRule := by
  refine ⟨masked_eq_iff_exists_decode (fun _ => rfl) (by decide), fun s => ?_, fun k s => rfl, fun k s h => ?_,
    fun s n hi hq hr hn j hj => ?_⟩
  · simp [decode_selP_eq_pgIdle]
  · obtain ⟨-, -, hq, -⟩ := decode_selP_eq_pgIdle.mp h
    rw [Bool.eq_false_iff, ne_eq, pwm_out_eq_true]
    simp [hq]
  · obtain ⟨t, ht⟩ := exists_run_of_inv hi j
    obtain ⟨htcnt, -, hline⟩ := pg_of_run_within_period hi (hr.mono hj.le) (by omega) ht
    have hcount : t.pg.tcnt ≠ t.cfg.PERIOD_TICKS - 1 := by
      rw [htcnt, cfg_of_run ht]
      omega
    have hlow : t.pg.pwm_q = .low :=
      Level.eq_low_of_ne_high fun hhigh => absurd (hline.mp hhigh).1 (by simp [hq])
    have hrst : t.input.rst = false := input_of_run ht ▸ hr j hj
    exact ⟨t, reach t, ht, decode_selP_eq_pgIdle.mpr ⟨hrst, ev_eq_false.mpr hcount, hlow, rfl⟩⟩

/-- Settles O50: the fire sets the counter to 0 and the width to W, and the period runs from there. -/
theorem pulseShape : Obligations.PulseShape := by
  intro s w hi hr hf hw k hk hkp
  obtain ⟨j, rfl⟩ := Nat.exists_eq_add_of_le' hk
  obtain ⟨hrst, hlast⟩ := fires_iff.mp hf
  obtain ⟨u, hu⟩ := exists_step_of_inv hi
  have hiu := hi.step hu
  obtain ⟨t, ht⟩ := exists_run_of_inv hiu j
  have hrun : run (j + 1) s = .next t := run_succ_eq_next.mpr ⟨u, hu, ht⟩
  have htcnt : u.pg.tcnt = 0 := by rw [(tickCounterRule s u hrst hu).1, if_pos hlast]
  obtain rfl : w = u.pg.pulse_width := Option.some.inj (hw.symm.trans (hf.width_of_step hu))
  have hline := ((pulseRegistersRule s u hu hrst).1 hlast).2
  have hru : u.NoReset j := fun i hij => by
    rw [inputAt_of_step hu]
    exact hr (i + 1) (by omega)
  obtain ⟨htcnt', -, hline'⟩ := pg_of_run_within_period hiu hru (by rw [htcnt, cfg_of_step hu]; omega) ht
  have hrt : t.input.rst = false := input_of_run hrun ▸ hr (j + 1) (by omega)
  rw [htcnt, Nat.zero_add] at htcnt' hline'
  refine ⟨t, hrun, htcnt', ?_, ?_⟩
  · rw [pwm_out_eq_true, hline', hline]
    simp only [hrt, and_true]
    omega
  · rw [fires_iff, htcnt', cfg_of_run hrun]
    simp only [hrt, true_and]
    omega

end Sys2Proof.Machine
end

section
/-! SUPPORT. The proofs of the statements about the pulse width (spec/41_pulse_generator.md): the exact transform, its
distance from the integers, the clamp, and how the width follows the sample. -/

namespace Sys2Proof.Machine

/-! The transform over the integers (R133, R134). -/

/-- R133: the three divisors, and none for the reserved code. -/
theorem divisor_cases : ∀ m : ModeBits, (m = 0 ∧ divisor m = some ⟨125183, 50000⟩) ∨
    (m = 1 ∧ divisor m = some ⟨500733, 100000⟩) ∨ (m = 2 ∧ divisor m = some ⟨7511, 500⟩) ∨
    (m = 3 ∧ divisor m = none) := by decide

/-- A divisor is one of the three. -/
theorem eq_of_divisor {m : ModeBits} {r : Ratio} (h : divisor m = some r) :
    r = ⟨125183, 50000⟩ ∨ r = ⟨500733, 100000⟩ ∨ r = ⟨7511, 500⟩ := by
  rcases divisor_cases m with ⟨-, hd⟩ | ⟨-, hd⟩ | ⟨-, hd⟩ | ⟨-, hd⟩
  · exact .inl (Option.some.inj (h.symm.trans hd))
  · exact .inr (.inl (Option.some.inj (h.symm.trans hd)))
  · exact .inr (.inr (Option.some.inj (h.symm.trans hd)))
  · simp [h] at hd

/-- The divisors are so large that no sample moves the width down by more than 205. -/
theorem divisor_ge {m : ModeBits} {r : Ratio} (h : divisor m = some r) : 512 * r.den ≤ 205 * r.num := by
  rcases eq_of_divisor h with rfl | rfl | rfl <;> decide

theorem widthRaw_of_divisor {m : ModeBits} {r : Ratio} (h : divisor m = some r) (c : Config) (s : Sample) :
    widthRaw c m s = some (widthOver c.BASE r s) := by
  rw [widthRaw, h, Option.map_some]

/-- Truncating division is the truncation of the exact quotient toward zero (R10). -/
theorem tdiv_eq_truncation (a : ℤ) {b : ℤ} (hb : 0 < b) :
    tdiv a b = if 0 ≤ (a : ℚ) / b then ⌊(a : ℚ) / b⌋ else -⌊-((a : ℚ) / b)⌋ := by
  have hbq : (0 : ℚ) < b := by exact_mod_cast hb
  have hsign : 0 ≤ (a : ℚ) / b ↔ 0 ≤ a := by rw [le_div_iff₀ hbq, zero_mul, Int.cast_nonneg_iff]
  have hfloor (x : ℤ) : ⌊(x : ℚ) / b⌋ = x / b := by
    lift b to ℕ using hb.le
    exact Rat.floor_intCast_div_natCast x b
  simp only [hsign, ← neg_div, ← Int.cast_neg, hfloor]
  rfl

/-- The fraction that is truncated is BASE plus the quotient by the exact divisor (R134). -/
theorem widthOver_eq_truncation (base : ℕ) {r : Ratio} (hr : 0 < r.num) (s : Sample) :
    widthOver base r s =
      if 0 ≤ (base : ℚ) + ((s.toNat : ℚ) - 512) / (r.num / r.den)
        then ⌊(base : ℚ) + ((s.toNat : ℚ) - 512) / (r.num / r.den)⌋
        else -⌊-((base : ℚ) + ((s.toNat : ℚ) - 512) / (r.num / r.den))⌋ := by
  have hrq : (r.num : ℚ) ≠ 0 := by exact_mod_cast hr.ne'
  have hquotient : (((base : ℤ) * r.num + ((s.toNat : ℤ) - (MIDPOINT : ℤ)) * r.den : ℤ) : ℚ) / r.num =
      (base : ℚ) + ((s.toNat : ℚ) - 512) / (r.num / r.den) := by
    push_cast [MIDPOINT]
    field_simp
  rw [widthOver, tdiv_eq_truncation _ hr, hquotient]

/-- At BASE ≥ 205 the exact width is not negative, so truncation is a floor. -/
theorem exact_width_nonneg {m : ModeBits} {r : Ratio} (h : divisor m = some r) {base : ℕ} (hb : 205 ≤ base)
    (s : Sample) : (0 : ℚ) ≤ (base : ℚ) + ((s.toNat : ℚ) - 512) / (r.num / r.den) := by
  obtain ⟨hnum, hden⟩ := divisor_pos h
  have hd : (0 : ℚ) < r.num / r.den := div_pos (by exact_mod_cast hnum) (by exact_mod_cast hden)
  have hge : (512 : ℚ) ≤ 205 * (r.num / r.den) := by
    rw [← mul_div_assoc, le_div_iff₀ (by exact_mod_cast hden)]
    exact_mod_cast divisor_ge h
  have hq : (-205 : ℚ) ≤ ((s.toNat : ℚ) - 512) / (r.num / r.den) := by
    rw [le_div_iff₀ hd]
    linarith [s.toNat.cast_nonneg (α := ℚ)]
  have hbq : (205 : ℚ) ≤ base := by exact_mod_cast hb
  linarith

/-- The decimal divisors of the source are the fractions of R133. -/
theorem divisor_of_decimal {m : ModeBits} {d : ℚ}
    (h : (m = 0 ∧ d = 250366 / 100000) ∨ (m = 1 ∧ d = 500733 / 100000) ∨ (m = 2 ∧ d = 150220 / 10000)) :
    ∃ r : Ratio, divisor m = some r ∧ d = r.num / r.den := by
  rcases h with ⟨rfl, rfl⟩ | ⟨rfl, rfl⟩ | ⟨rfl, rfl⟩
  · exact ⟨⟨125183, 50000⟩, rfl, by norm_num⟩
  · exact ⟨⟨500733, 100000⟩, rfl, by norm_num⟩
  · exact ⟨⟨7511, 500⟩, rfl, by norm_num⟩

/-- Settles O12: the truncated fraction is `widthOver_eq_truncation`'s, and BASE comes out of a floor. -/
theorem rawWidthIsTheExactExpressionTruncated : Obligations.RawWidthIsTheExactExpressionTruncated := by
  refine ⟨fun c m s d hmd => ?_, fun _ _ => rfl, rfl, rfl, rfl, fun m r h => ?_⟩
  · obtain ⟨r, hr, rfl⟩ := divisor_of_decimal hmd
    rw [widthRaw_of_divisor hr, widthOver_eq_truncation c.BASE (divisor_pos hr).1]
    refine ⟨rfl, fun hnonneg => ?_, fun hb => exact_width_nonneg hr hb s⟩
    rw [if_pos hnonneg, Int.floor_natCast_add]
  · rcases eq_of_divisor h with rfl | rfl | rfl <;> decide

/-! How far the quotient stays from the integers (R134). -/

/-- Mode 0, whose divisor is close to 5/2: the nearest multiples have 5k = 2n ± 1, for 5k = 2n is near at n = 0 only. -/
theorem remainder_ge_of_mode0 {n : ℤ} (k : ℤ) (hlo : -512 ≤ n) (hhi : n ≤ 511) (hn : n ≠ 0) :
    56 * 125183 ≤ 100000 * (n * 50000 - k * 125183) ∨ 56 * 125183 ≤ 100000 * (k * 125183 - n * 50000) := by
  obtain h | h | h | h | h :
      5 * k ≤ 2 * n - 2 ∨ 5 * k = 2 * n - 1 ∨ 5 * k = 2 * n ∨ 5 * k = 2 * n + 1 ∨ 2 * n + 2 ≤ 5 * k := by omega
  · omega
  · omega
  · omega
  · omega
  · omega

/-- Mode 1, whose divisor is close to 5: only 5k = n comes near, and at n = 0 only. -/
theorem remainder_ge_of_mode1 {n : ℤ} (k : ℤ) (hlo : -512 ≤ n) (hhi : n ≤ 511) (hn : n ≠ 0) :
    56 * 500733 ≤ 100000 * (n * 100000 - k * 500733) ∨ 56 * 500733 ≤ 100000 * (k * 500733 - n * 100000) := by
  obtain h | h | h := lt_trichotomy (5 * k) n
  · omega
  · omega
  · omega

/-- Mode 2, whose divisor is close to 15: only 15k = n comes near, and at n = 0 only. -/
theorem remainder_ge_of_mode2 {n : ℤ} (k : ℤ) (hlo : -512 ≤ n) (hhi : n ≤ 511) (hn : n ≠ 0) :
    56 * 7511 ≤ 100000 * (n * 500 - k * 7511) ∨ 56 * 7511 ≤ 100000 * (k * 7511 - n * 500) := by
  obtain h | h | h := lt_trichotomy (15 * k) n
  · omega
  · omega
  · omega

/-- Off the midpoint the remainder is at least 0.00056 of the divisor, in every mode. -/
theorem remainder_ge {m : ModeBits} {r : Ratio} (h : divisor m = some r) {n : ℤ} (k : ℤ)
    (hlo : -512 ≤ n) (hhi : n ≤ 511) (hn : n ≠ 0) : 56 * r.num ≤ 100000 * |n * r.den - k * r.num| := by
  have hsplit : 56 * r.num ≤ 100000 * (n * r.den - k * r.num) ∨ 56 * r.num ≤ 100000 * (k * r.num - n * r.den) := by
    rcases eq_of_divisor h with rfl | rfl | rfl
    · exact remainder_ge_of_mode0 k hlo hhi hn
    · exact remainder_ge_of_mode1 k hlo hhi hn
    · exact remainder_ge_of_mode2 k hlo hhi hn
  obtain hpos | hneg := hsplit
  · linarith [le_abs_self (n * r.den - k * r.num)]
  · linarith [neg_le_abs (n * r.den - k * r.num)]

/-- Settles O13: the distance is the remainder over the divisor. -/
theorem quotientKeepsAwayFromIntegers : Obligations.QuotientKeepsAwayFromIntegers := by
  intro m r s k hr hs
  obtain ⟨hnum, -⟩ := divisor_pos hr
  have hnumq : (0 : ℚ) < r.num := by exact_mod_cast hnum
  have hlt := s.isLt
  have hne : s.toNat ≠ 512 := fun h => hs (BitVec.eq_of_toNat_eq h)
  have hremainder := remainder_ge hr (n := (s.toNat : ℤ) - 512) k (by omega) (by omega) (by omega)
  have hdistance : ((s.toNat : ℚ) - 512) * r.den / r.num - k =
      (((s.toNat : ℤ) - 512) * r.den - k * r.num : ℤ) / (r.num : ℚ) := by
    push_cast
    field_simp
  rw [hdistance, abs_div, abs_of_pos hnumq, le_div_iff₀ hnumq, ← Int.cast_abs, div_mul_eq_mul_div,
    div_le_iff₀ (by norm_num), mul_comm _ (100000 : ℚ)]
  exact_mod_cast hremainder

/-! The clamp (R135). -/

/-- Settles O14: the bounds are not negative, so the clamped raw width is a natural number. -/
theorem widthIsTheClampedRawWidth : Obligations.WidthIsTheClampedRawWidth := by
  intro c m s hm
  obtain ⟨w, hw⟩ := exists_width (c := c) s hm
  obtain ⟨v, hv, hvw⟩ := Option.map_eq_some_iff.mp hw
  have hclamp : (w : ℤ) = min (max v c.MIN_PULSE) c.MAX_PULSE := by
    rw [← hvw, clamp]
    omega
  exact ⟨v, w, hv, hw, hclamp, fun hc => width_bounds hc hw, by omega⟩

/-! Where the exact width is not negative: BASE plus the floor of the quotient (R134, R136, R143). -/

/-- The floor of n / d, for n samples above the midpoint. -/
def quotientFloor (r : Ratio) (n : ℤ) : ℤ := n * r.den / r.num

theorem widthRaw_eq_add_quotientFloor {c : Config} {m : ModeBits} {r : Ratio} {s : Sample} (h : divisor m = some r)
    (hnonneg : 0 ≤ (c.BASE : ℤ) * r.num + ((s.toNat : ℤ) - 512) * r.den) :
    widthRaw c m s = some (c.BASE + quotientFloor r ((s.toNat : ℤ) - 512)) := by
  rw [widthRaw_of_divisor h, widthOver, tdiv, MIDPOINT, Nat.cast_ofNat, if_pos hnonneg, Int.add_comm,
    Int.add_mul_ediv_right _ _ (divisor_pos h).1.ne', Int.add_comm, quotientFloor]

/-- At the midpoint the quotient is 0 (R143 (c)). -/
theorem widthRaw_midpoint (c : Config) {m : ModeBits} (hm : m ≠ 3) : widthRaw c m 512 = some (c.BASE : ℤ) := by
  obtain ⟨r, hr⟩ := Option.ne_none_iff_exists'.mp (mt divisor_eq_none.mp hm)
  have hnum := (divisor_pos hr).1
  have hmid : ((512 : Sample).toNat : ℤ) - 512 = 0 := rfl
  rw [widthRaw_eq_add_quotientFloor hr, hmid]
  · simp [quotientFloor]
  · rw [hmid, zero_mul, add_zero]
    exact mul_nonneg (Int.natCast_nonneg c.BASE) hnum.le

theorem width_of_widthRaw {c : Config} {m : ModeBits} {s : Sample} {n : ℕ} (h : widthRaw c m s = some (n : ℤ))
    (hlo : c.MIN_PULSE ≤ n) (hhi : n ≤ c.MAX_PULSE) : width c m s = some n := by
  rw [width, h, Option.map_some, clamp]
  congr 1
  omega

theorem widthOver_mono {base : ℕ} {r : Ratio} (hnum : 0 < r.num) (hden : 0 ≤ r.den) {s s' : Sample}
    (h : s.toNat ≤ s'.toNat) : widthOver base r s ≤ widthOver base r s' := by
  apply tdiv_mono hnum
  gcongr

/-- Settles O16: truncation and clamp are monotone, and the quotient of the midpoint is 0. -/
theorem widthIsMonotoneAndCentred : Obligations.WidthIsMonotoneAndCentred := by
  refine ⟨fun c m s s' w w' hs hw hw' => ?_, fun c m hc hm => ?_⟩
  · obtain ⟨v, hv, rfl⟩ := Option.map_eq_some_iff.mp hw
    obtain ⟨v', hv', rfl⟩ := Option.map_eq_some_iff.mp hw'
    obtain ⟨r, hr, rfl⟩ := Option.map_eq_some_iff.mp hv
    rw [widthRaw_of_divisor hr] at hv'
    obtain rfl := Option.some.inj hv'
    obtain ⟨hnum, hden⟩ := divisor_pos hr
    exact Int.toNat_le_toNat (clamp_mono (widthOver_mono hnum hden.le hs))
  · obtain ⟨-, hmin, hmax, -⟩ := hc
    exact ⟨width_of_widthRaw (widthRaw_midpoint c hm) hmin hmax, widthRaw_midpoint c hm⟩

/-- The raw width depends on BASE alone of the configuration. -/
theorem widthRaw_congr {c c' : Config} (h : c.BASE = c'.BASE) : widthRaw c = widthRaw c' := by
  funext m s
  rw [widthRaw, widthRaw, h]

/-- Settles O15: the table by computing its rows, and each span by its row's ends. -/
theorem rawWidthTable : Obligations.RawWidthTable := by
  intro c hc
  rw [widthRaw_congr (c' := ⟨0, 380, 0, 0⟩) hc]
  refine ⟨by decide, by decide, by decide, fun m a b ha hb => ?_⟩
  rcases divisor_cases m with ⟨rfl, -⟩ | ⟨rfl, -⟩ | ⟨rfl, -⟩ | ⟨rfl, -⟩ <;> cases ha <;> cases hb <;> decide

/-! The steps of the width from one sample to the next (R143 (b)). -/

section Steps
variable {r : Ratio} (hnum : 0 < r.num)
include hnum

theorem quotientFloor_lt_iff {n k : ℤ} : quotientFloor r n < k ↔ n * r.den < k * r.num :=
  Int.ediv_lt_iff_lt_mul hnum

theorem le_quotientFloor_iff {n k : ℤ} : k ≤ quotientFloor r n ↔ k * r.num ≤ n * r.den :=
  Int.le_ediv_iff_mul_le hnum

theorem quotientFloor_le_succ (hden : 0 ≤ r.den) (n : ℤ) : quotientFloor r n ≤ quotientFloor r (n + 1) :=
  Int.ediv_le_ediv hnum (by linarith)

/-- A divisor of at least 1 lets a step of the sample pass one integer at most. -/
theorem quotientFloor_succ_le (hle : r.den ≤ r.num) (n : ℤ) : quotientFloor r (n + 1) ≤ quotientFloor r n + 1 := by
  rw [← Int.lt_add_one_iff, quotientFloor_lt_iff hnum]
  have := (quotientFloor_lt_iff hnum).mp (Int.lt_add_one_iff.mpr (le_refl (quotientFloor r n)))
  linarith

/-- Where each multiple of a coarser divisor that a step of the sample passes comes with one of `r`'s that it passes too,
the coarser quotient steps by no more. -/
theorem quotientFloor_step_le {r' : Ratio} {n : ℤ} (f : ℤ) (hnum' : 0 < r'.num) (hden : 0 ≤ r.den)
    (hle' : r'.den ≤ r'.num) (hpass : ∀ k, n * r'.den < k * r'.num → k * r'.num ≤ (n + 1) * r'.den →
      n * r.den < f * k * r.num ∧ f * k * r.num ≤ (n + 1) * r.den) :
    quotientFloor r' (n + 1) - quotientFloor r' n ≤ quotientFloor r (n + 1) - quotientFloor r n := by
  have hmono := quotientFloor_le_succ hnum hden n
  have hone := quotientFloor_succ_le hnum' hle' n
  obtain hstay | hstep := le_or_gt (quotientFloor r' (n + 1)) (quotientFloor r' n)
  · omega
  · obtain ⟨hbelow, habove⟩ := hpass _ ((quotientFloor_lt_iff hnum').mp hstep) ((le_quotientFloor_iff hnum').mp le_rfl)
    have h1 := (quotientFloor_lt_iff hnum).mpr hbelow
    have h2 := (le_quotientFloor_iff hnum).mpr habove
    omega

end Steps

/-- Every multiple of mode 1's divisor is close to an even one of mode 0's: no sample lies between the two. -/
theorem step_mode1_le_mode0 {n : ℤ} (hlo : -512 ≤ n) (hhi : n ≤ 510) :
    quotientFloor ⟨500733, 100000⟩ (n + 1) - quotientFloor ⟨500733, 100000⟩ n ≤
      quotientFloor ⟨125183, 50000⟩ (n + 1) - quotientFloor ⟨125183, 50000⟩ n := by
  refine quotientFloor_step_le (by decide) 2 (by decide) (by decide) (by decide) fun k hbelow habove => ?_
  dsimp only at hbelow habove ⊢
  have hn := remainder_ge_of_mode1 (n := n) k hlo (by omega)
  have hn1 := remainder_ge_of_mode1 (n := n + 1) k (by omega) (by omega)
  exact ⟨by omega, by omega⟩

/-- Every multiple of mode 2's divisor is close to a third one of mode 1's: no sample lies between the two. -/
theorem step_mode2_le_mode1 {n : ℤ} (hlo : -512 ≤ n) (hhi : n ≤ 510) :
    quotientFloor ⟨7511, 500⟩ (n + 1) - quotientFloor ⟨7511, 500⟩ n ≤
      quotientFloor ⟨500733, 100000⟩ (n + 1) - quotientFloor ⟨500733, 100000⟩ n := by
  refine quotientFloor_step_le (by decide) 3 (by decide) (by decide) (by decide) fun k hbelow habove => ?_
  dsimp only at hbelow habove ⊢
  have hn := remainder_ge_of_mode2 (n := n) k hlo (by omega)
  have hn1 := remainder_ge_of_mode2 (n := n + 1) k (by omega) (by omega)
  exact ⟨by omega, by omega⟩

/-- At BASE ≥ 205 the raw width of every sample is BASE plus the quotient's floor. -/
theorem widthRaw_eq_at_sample {c : Config} {m : ModeBits} {r : Ratio} {n : ℕ} {v : ℤ} (hb : 205 ≤ c.BASE)
    (hr : divisor m = some r) (hn : n ≤ 1023) (h : widthRaw c m (BitVec.ofNat 10 n) = some v) :
    v = c.BASE + quotientFloor r ((n : ℤ) - 512) := by
  have hs : (BitVec.ofNat 10 n).toNat = n := by
    rw [BitVec.toNat_ofNat, Nat.mod_eq_of_lt (by omega)]
  obtain ⟨hnum, hden⟩ := divisor_pos hr
  have hge := divisor_ge hr
  have hnonneg : 0 ≤ (c.BASE : ℤ) * r.num + (((BitVec.ofNat 10 n).toNat : ℤ) - 512) * r.den := by
    rw [hs]
    nlinarith
  rw [widthRaw_eq_add_quotientFloor hr hnonneg, hs] at h
  exact (Option.some.inj h).symm

/-- Settles O17: the steps of the quotient's floor, compared mode by mode. -/
theorem sensitivityOrdering : Obligations.SensitivityOrdering := by
  intro c n a0 b0 a1 b1 a2 b2 hc hn ha0 hb0 ha1 hb1 ha2 hb2
  have hb : 205 ≤ c.BASE := by omega
  have hnext : ((n + 1 : ℕ) : ℤ) - 512 = ((n : ℤ) - 512) + 1 := by omega
  rw [widthRaw_eq_at_sample hb rfl (by omega) ha0, widthRaw_eq_at_sample hb rfl (by omega) hb0,
    widthRaw_eq_at_sample hb rfl (by omega) ha1, widthRaw_eq_at_sample hb rfl (by omega) hb1,
    widthRaw_eq_at_sample hb rfl (by omega) ha2, widthRaw_eq_at_sample hb rfl (by omega) hb2, hnext]
  have h2 := quotientFloor_le_succ (r := ⟨7511, 500⟩) (by decide) (by decide) ((n : ℤ) - 512)
  have h21 := step_mode2_le_mode1 (n := (n : ℤ) - 512) (by omega) (by omega)
  have h10 := step_mode1_le_mode0 (n := (n : ℤ) - 512) (by omega) (by omega)
  have h0 := quotientFloor_succ_le (r := ⟨125183, 50000⟩) (by decide) (by decide) ((n : ℤ) - 512)
  omega

end Sys2Proof.Machine
end

section
/-! SUPPORT. The proof of the statement about the stops (spec/60_exceptions.md): which cycles stop and with which reason,
that the check of a state never fails after a completed cycle, and that a stop is final. -/

namespace Sys2Proof.Machine

/-! The closed list of stops (R171). -/

/-- Every cycle is in one of three cases: the configuration refuses it, the state refuses it, or nothing does, and
then only the reserved mode can stop it. -/
theorem step_stop_cases (s : State) :
    (¬ s.cfg.WellFormed ∧ step s = .refused .illFormedConfig) ∨
    ((s.cfg.WellFormed ∧ s.input.rst = false ∧ ¬ s.Legal) ∧ step s = .refused .illFormedState) ∨
    (s.cfg.WellFormed ∧ (s.input.rst = true ∨ s.Legal) ∧
      ((∃ t, step s = .next t) ∨ (step s = .fault .reservedMode ∧ s.smp.mode = 3))) := by
  by_cases hc : s.cfg.WellFormed
  · by_cases hl : s.input.rst = true ∨ s.Legal
    · refine .inr (.inr ⟨hc, hl, ?_⟩)
      by_cases hm : s.smp.mode = 3
      · rcases hr : s.input.rst with _ | _
        · exact (step_eq_next_or_fault hc (hl.resolve_left (by simp [hr])) hr).imp_right fun hf => ⟨hf, hm⟩
        · exact .inl ⟨_, step_of_rst hc hr⟩
      · exact .inl (exists_step_of_rst_or_legal hc hl hm)
    · obtain ⟨hr, hill⟩ := not_or.mp hl
      have hrst := Bool.eq_false_of_not_eq_true hr
      exact .inr (.inl ⟨⟨hc, hrst, hill⟩, step_of_illFormedState hc hrst hill⟩)
  · exact .inl ⟨hc, step_of_illFormedConfig hc⟩

theorem step_eq_refused_illFormedConfig_iff {s : State} :
    step s = .refused .illFormedConfig ↔ ¬ s.cfg.WellFormed := by
  refine ⟨fun h hc => ?_, step_of_illFormedConfig⟩
  rcases step_stop_cases s with ⟨hn, -⟩ | ⟨-, hs⟩ | ⟨-, -, ⟨t, hs⟩ | ⟨hs, -⟩⟩
  · exact hn hc
  all_goals simp [hs] at h

theorem step_eq_refused_illFormedState_iff {s : State} :
    step s = .refused .illFormedState ↔ s.cfg.WellFormed ∧ s.input.rst = false ∧ ¬ s.Legal := by
  refine ⟨fun h => ?_, fun ⟨hc, hr, hill⟩ => step_of_illFormedState hc hr hill⟩
  rcases step_stop_cases s with ⟨-, hs⟩ | ⟨hill, -⟩ | ⟨-, -, ⟨t, hs⟩ | ⟨hs, -⟩⟩
  · simp [hs] at h
  · exact hill
  all_goals simp [hs] at h

theorem step_ne_refused_notModelled (s : State) (m : String) : step s ≠ .refused (.notModelled m) := by
  rcases step_stop_cases s with ⟨-, hs⟩ | ⟨-, hs⟩ | ⟨-, -, ⟨t, hs⟩ | ⟨hs, -⟩⟩ <;> simp [hs]

theorem mode_eq_three_of_step_fault {s : State} {r : Fault} (h : step s = .fault r) : s.smp.mode = 3 := by
  rcases step_stop_cases s with ⟨-, hs⟩ | ⟨-, hs⟩ | ⟨-, -, ⟨t, hs⟩ | ⟨-, hm⟩⟩
  case inr.inr.inr => exact hm
  all_goals simp [hs] at h

/-! The check never fails after a completed cycle (R171). -/

/-- A width that fits its N_TICK bits still fits after a cycle: a fire's is at most MAX_PULSE, which is below P. -/
theorem pulse_width_lt_two_pow_of_step {s t : State} (h : step s = .next t)
    (hfit : s.pg.pulse_width < 2 ^ nTick s.cfg) : t.pg.pulse_width < 2 ^ nTick s.cfg := by
  obtain ⟨⟨hp, hmin, hmax, hlt⟩, -⟩ := step_eq_next h
  have hperiod := period_le_two_pow_nTick s.cfg
  rcases pg_cases_of_step h with ⟨-, ht⟩ | ⟨-, -, w, hw, ht⟩ | ⟨-, -, ht⟩ <;> rw [ht]
  · exact Nat.two_pow_pos _
  · have hle := (width_bounds (hmin.trans hmax) hw).2
    show w < 2 ^ nTick s.cfg
    omega
  · exact hfit

/-- Every state that a cycle leads to is legal: RESET's by the invariant, any other's from the legal state before it. -/
theorem legal_of_step {s t : State} (h : step s = .next t) : t.Legal := by
  obtain ⟨-, ⟨hr, -⟩ | ⟨hr, ⟨-, -, hfit⟩, -⟩⟩ := step_eq_next h
  · exact (inv_of_step_of_rst h hr).legal
  · rw [State.Legal, cfg_of_step h]
    exact ⟨(tickCounterRule s t hr h).2, pulse_in_progress_of_step h, pulse_width_lt_two_pow_of_step h hfit⟩

theorem wellFormed_of_step {s t : State} (h : step s = .next t) : t.cfg.WellFormed :=
  cfg_of_step h ▸ (step_eq_next h).1

/-! A stop is final (R171, R212). -/

/-- A run that has stopped stays where it stopped, however many cycles more it is given. -/
theorem run_add_of_stopped {n : Nat} {s : State} (h : ∀ t, run n s ≠ .next t) (m : Nat) : run (n + m) s = run n s := by
  induction n generalizing s with
  | zero => exact absurd rfl (h s)
  | succ n ih =>
    rw [Nat.succ_add]
    rcases hs : step s with t | r | r
    · rw [run_succ_of_step hs] at h
      rw [run_succ_of_step hs, run_succ_of_step hs, ih h]
    · simp only [run, hs]
    · simp only [run, hs]

/-- Settles O42: the stops by `step_stop_cases`, the passed check by `legal_of_step`, the end by `run_add_of_stopped`. -/
theorem stopsAreTheClosedList : Obligations.StopsAreTheClosedList :=
  ⟨fun _ => step_eq_refused_illFormedConfig_iff, fun _ => step_eq_refused_illFormedState_iff,
    step_ne_refused_notModelled, fun _ _ h => ⟨fault_eq_reservedMode_of_step h, mode_eq_three_of_step_fault h⟩,
    fun _ _ h => ⟨wellFormed_of_step h, legal_of_step h⟩,
    fun _ m _ _ h => (run_add_of_stopped (by simp [h]) m).trans h,
    fun _ m _ _ h => (run_add_of_stopped (by simp [h]) m).trans h⟩

end Sys2Proof.Machine
end

section
/-! SUPPORT. The proofs of the statements about reset, the environment's premises and the timing
(spec/70_reset_and_hazards.md): RESET, the first cycles after it, and how far a change of the inputs is from the line. -/

namespace Sys2Proof.Machine

/-! RESET (R200). -/

theorem exists_decode_selS_eq_reset {s : State} : (∃ x, decode (selS s) = .ok (.reset x)) ↔ s.input.rst = true := by
  rw [decode_selS, samplerOp]
  split <;> simp_all

theorem exists_decode_selP_eq_reset {s : State} : (∃ x, decode (selP s) = .ok (.reset x)) ↔ s.input.rst = true := by
  rw [decode_selP, pulseOp]
  split <;> simp_all

theorem output_of_rst {s : State} (hr : s.input.rst = true) : s.output = ⟨false, false⟩ := by
  simp [State.output, hr]

theorem exists_run_of_rst {s : State} (hc : s.cfg.WellFormed) (hr : s.input.rst = true) (n : Nat) :
    ∃ t, run (n + 1) s = .next t := by
  have hs := step_of_rst hc hr
  rw [run_succ_of_step hs]
  exact exists_run_of_inv (inv_of_step_of_rst hs hr) n

/-- Settles O2: each cycle with `rst` = 1 by `step_of_rst`, so a run of them ends as its last cycle does. -/
theorem resetFollowsItsRule : Obligations.ResetFollowsItsRule := by
  refine ⟨fun s => ⟨exists_decode_selS_eq_reset.symm, exists_decode_selP_eq_reset.symm⟩, fun x s => rfl,
    fun s => output_of_rst, fun s => step_of_rst, fun s n hc hr => ?_⟩
  obtain ⟨t, ht⟩ := exists_run_of_rst hc (hr 0 n.succ_pos) n
  obtain ⟨u, hu, hlast⟩ := run_succ_last.mp ht
  exact ⟨t, ht, simultaneousEvents.1 u t (input_of_run hu ▸ hr n n.lt_succ_self) hlast⟩

/-! The run without end (R207, R212). -/

/-- Settles O45: the invariant gives each cycle its next state, and a run keeps it. -/
theorem invariantStatesNeverStop : Obligations.InvariantStatesNeverStop :=
  fun _ hi => ⟨exists_run_of_inv hi, fun _ _ => hi.run⟩

/-- Settles O46: the flag and the line are the invariant's, and PG_FIRE_OVR needs the line HIGH at the last tick. -/
theorem overrunNeverHappens : Obligations.OverrunNeverHappens := by
  intro s hi
  obtain ⟨-, -, -, hmax⟩ := hi.config
  refine ⟨hmax, fun n t ht => ?_⟩
  have hit := hi.run ht
  have hlow := hit.line_low_at_last_tick
  refine ⟨hit.no_overrun, fun k hk => ?_, fun hlast => hlow (cfg_of_run ht ▸ hlast)⟩
  obtain ⟨-, hlast, hhigh, -⟩ := decode_selP_eq_pgFireOvr.mp hk
  simp [hlow (ev_eq_true.mp hlast)] at hhigh

/-! The first period after reset (R201, R202). -/

/-- Settles O48: the Sampler's first two cycles by its selectors, and the Pulse Generator idles while the line is LOW. -/
theorem firstCyclesAfterReset : Obligations.FirstCyclesAfterReset := by
  intro c ins hc hr
  have ⟨hp, _⟩ := hc
  have hi := inv_resetWith ins hc
  have hrst : (State.resetWith c ins).input.rst = false := hr 0 (by omega)
  obtain ⟨t, ht⟩ := exists_step_of_inv hi
  obtain ⟨m, -, hsmp⟩ := smp_of_step_of_issue ht hrst rfl
  have hinput : t.input = (State.resetWith c ins).inputAt 1 := inputAt_of_step ht 0
  have hrt : t.input.rst = false := hinput ▸ hr 1 hp
  have htcnt : t.pg.tcnt = 1 := by
    rw [tcnt_of_step hi ht hrst]
    exact Nat.mod_eq_of_lt hp
  refine ⟨decode_selS_eq_smpIssue.mpr ⟨hrst, rfl⟩, adc_start_eq_true.mpr ⟨rfl, hrst⟩,
    ⟨t, run_succ_of_step ht 0, htcnt, by rw [hsmp], ?_⟩, fun j hj => ?_⟩
  · rw [decode_selS_eq_smpLatch, hsmp, ← hinput]
    simp [hrt]
  · obtain ⟨-, -, -, -, hidle⟩ := pgIdleFollowsItsRule
    exact hidle _ (c.PERIOD_TICKS - 1) hi rfl (hr.mono (Nat.sub_le ..)) (Nat.zero_add _).le j (by omega)

/-- In the period that a fire begins, the line is HIGH for the width that the fire computes. -/
theorem pwm_q_of_run_after_fire {n w : Nat} {s t : State} (hi : s.Inv) (hf : s.Fires)
    (hw : width s.cfg s.smp.mode s.smp.raw_sample = some w) (hr : s.NoReset (n + 1))
    (hn : n ≤ s.cfg.PERIOD_TICKS - 1) (h : run (n + 1) s = .next t) : t.pg.pwm_q = .high ↔ n < w := by
  obtain ⟨hrst, hlast⟩ := fires_iff.mp hf
  obtain ⟨u, hu, ht⟩ := run_succ_eq_next.mp h
  have htcnt : u.pg.tcnt = 0 := by rw [(tickCounterRule s u hrst hu).1, if_pos hlast]
  obtain rfl : w = u.pg.pulse_width := Option.some.inj (hw.symm.trans (hf.width_of_step hu))
  have hline := ((pulseRegistersRule s u hu hrst).1 hlast).2
  have hru : u.NoReset n := fun k hk => inputAt_of_step hu k ▸ hr (k + 1) (by omega)
  obtain ⟨-, -, hline'⟩ :=
    pg_of_run_within_period (hi.step hu) hru (by rw [htcnt, cfg_of_step hu]; omega) ht
  rw [hline', hline, htcnt]
  omega

/-- Settles O49: LOW through the first period, then the pulse of the fire in its last cycle. -/
theorem firstPulseAfterReset : Obligations.FirstPulseAfterReset := by
  intro c ins hc hr
  have ⟨hp, hmin, hmax, hlt⟩ := hc
  have hi := inv_resetWith ins hc
  obtain ⟨t, ht⟩ := exists_run_of_inv hi (c.PERIOD_TICKS - 1)
  have hit := hi.run ht
  have hcfg : t.cfg = c := cfg_of_run ht
  have hf : t.Fires := (fires_within_period_iff hi hr (show c.PERIOD_TICKS - 1 < c.PERIOD_TICKS by omega) ht).mpr rfl
  obtain ⟨w, hw⟩ := exists_width (c := c) t.smp.raw_sample (mode_ne_three_iff.mpr hit.mode_legal)
  have hwmax := (width_bounds (hmin.trans hmax) hw).2
  refine ⟨t, w, ht, hf, hw, fun j hj => ?_, fun hrw j hj hjw => ?_⟩
  · obtain ⟨u, hu⟩ := exists_run_of_inv hi j
    obtain ⟨-, -, hline⟩ := pg_of_run_within_period hi (hr.mono hj.le) (show 0 + j ≤ c.PERIOD_TICKS - 1 by omega) hu
    refine ⟨u, hu, ?_⟩
    rw [Bool.eq_false_iff, ne_eq, pwm_out_eq_true, hline]
    simp
  · obtain ⟨n, rfl⟩ := Nat.exists_eq_add_of_le hj
    have hsplit : c.PERIOD_TICKS + n = c.PERIOD_TICKS - 1 + (n + 1) := by omega
    obtain ⟨u, hu⟩ := exists_run_of_inv hi (c.PERIOD_TICKS + n)
    have hrt : t.NoReset (n + 1) := fun k hk => inputAt_of_run ht k ▸ hrw _ (by omega)
    have hline := pwm_q_of_run_after_fire hit hf (hcfg ▸ hw) hrt (by rw [hcfg]; omega)
      (by rw [← run_add_of_run ht, ← hsplit, hu])
    exact ⟨u, hu, pwm_out_eq_true.mpr ⟨hline.mpr (by omega), input_of_run hu ▸ hrw _ hjw⟩⟩

/-! The button between two samples (R206). -/

theorem State.button_eq_of_buttonChanges_eq_zero {s : State} {n : Nat} (h : s.buttonChanges n = 0) :
    (s.inputAt n).button_in = s.input.button_in := by
  induction n with
  | zero => rfl
  | succ n ih =>
    obtain ⟨hbefore, hstep⟩ := Nat.add_eq_zero_iff.mp h
    have hsame : (s.inputAt n).button_in = (s.inputAt (n + 1)).button_in := by
      by_contra hne
      simp [hne] at hstep
    rw [← hsame, ih hbefore]

/-- BUTTON_CLEAN: a button that changes at most once has a release exactly where its two ends make a release edge. -/
theorem State.buttonReleases_of_clean {s : State} {n : Nat} (h : s.buttonChanges n ≤ 1) :
    s.buttonReleases n = if s.input.button_in = true ∧ (s.inputAt n).button_in = false then 1 else 0 := by
  induction n with
  | zero => simp [State.buttonReleases, State.inputAt_zero]
  | succ n ih =>
    rw [State.buttonChanges] at h
    rw [State.buttonReleases, ih (by omega)]
    by_cases hsame : (s.inputAt n).button_in = (s.inputAt (n + 1)).button_in
    · simp [hsame]
    · rw [if_neg hsame] at h
      have hfirst := State.button_eq_of_buttonChanges_eq_zero (s := s) (n := n) (by omega)
      simp [hfirst]

/-- Settles O55: the second sample sees the release edge between the two samples, which is the clean button's release. -/
theorem cleanButtonAdvancesOncePerRelease : Obligations.CleanButtonAdvancesOncePerRelease := by
  intro s t u k v hi hp hr ha hclean ht hu
  have hr' : s.NoReset (k + 1) := hr.mono (k + 1).le_succ
  obtain ⟨x, hx⟩ := exists_step_of_inv hi
  obtain ⟨m, -, hsmp⟩ := smp_of_step_of_issue hx (hr 0 (Nat.succ_pos _)) hp
  have hafter := smp_after_iteration hp hr' ha hx ht
  have hinput := input_of_run ht
  obtain ⟨m', hm', hsmp'⟩ := smp_of_step_of_issue hu (hinput ▸ hr (k + 1) (Nat.lt_succ_self _)) (by rw [hafter])
  have hprev : t.smp.prev_button_state = s.input.button_in := by rw [hafter, hsmp]
  rw [hsmp', State.buttonReleases_of_clean hclean, toNat_modeAfterSample (hi.run ht).mode_legal hm', hprev, hinput]

/-! From a change to the line (R208). -/

/-- Where the ADC reports nothing the sample is kept, whatever the phase. -/
theorem raw_sample_of_run_of_silent {n : Nat} {s t : State} (h : run n s = .next t) (hr : s.NoReset n)
    (hs : s.AdcSilent n) : t.smp.raw_sample = s.smp.raw_sample := by
  induction n generalizing t with
  | zero => cases h; rfl
  | succ n ih =>
    obtain ⟨u, hu, ht⟩ := run_succ_last.mp h
    have hrst : u.input.rst = false := input_of_run hu ▸ hr n n.lt_succ_self
    have hdone : u.input.adc_done = false := input_of_run hu ▸ hs n n.lt_succ_self
    rw [rawSampleRule u t ht, ← ih hu (hr.mono n.le_succ) (hs.mono n.le_succ)]
    simp [hrst, hdone]

/-- The first fire in a later cycle is at most P cycles on: the P cycles from the next one on hold exactly one. -/
theorem exists_next_fire {s : State} (hi : s.Inv) (hr : s.NoReset (s.cfg.PERIOD_TICKS + 1)) :
    ∃ d t, 1 ≤ d ∧ d ≤ s.cfg.PERIOD_TICKS ∧ run d s = .next t ∧ t.Fires ∧
      ∀ e x, 1 ≤ e → e < d → run e s = .next x → ¬ x.Fires := by
  obtain ⟨x, hx⟩ := exists_step_of_inv hi
  have hrx : x.NoReset x.cfg.PERIOD_TICKS := fun k hk =>
    inputAt_of_step hx k ▸ hr (k + 1) (Nat.succ_lt_succ (cfg_of_step hx ▸ hk))
  obtain ⟨-, hone, -⟩ := oneFirePerPeriod
  obtain ⟨k, hk, ⟨t, ht, hf⟩, honly⟩ := hone x (hi.step hx) hrx
  refine ⟨k + 1, t, Nat.le_add_left .., cfg_of_step hx ▸ hk, (run_succ_of_step hx k).trans ht, hf,
    fun e y he hek hy hfy => ?_⟩
  obtain ⟨j, rfl⟩ := Nat.exists_eq_add_of_le' he
  rw [run_succ_of_step hx] at hy
  exact absurd (honly j y (by omega) hy hfy) (by omega)

section Unanswered
variable {s t : State} {n : Nat} (hr : s.NoReset n) (hn : 1 ≤ n)
  (hs : ∀ e, 1 ≤ e → e < n → (s.inputAt e).adc_done = false) (h : run n s = .next t)
include hr hn hs h

/-- A run whose later cycles are all unanswered, as its first cycle and a silent run. -/
theorem exists_step_and_silent_run : ∃ x m, step s = .next x ∧ run m x = .next t ∧ x.NoReset m ∧ x.AdcSilent m := by
  obtain ⟨m, rfl⟩ := Nat.exists_eq_add_of_le' hn
  obtain ⟨x, hx, ht⟩ := run_succ_eq_next.mp h
  exact ⟨x, m, hx, ht, fun k hk => inputAt_of_step hx k ▸ hr (k + 1) (Nat.succ_lt_succ hk),
    fun k hk => inputAt_of_step hx k ▸ hs (k + 1) (Nat.le_add_left ..) (Nat.succ_lt_succ hk)⟩

/-- A latched sample stays up to the next completion. -/
theorem raw_sample_of_run_after_latch (hop : decode (selS s) = .ok .smpLatch) :
    t.smp.raw_sample = s.input.adc_result := by
  obtain ⟨x, m, hx, ht, hrx, hsx⟩ := exists_step_and_silent_run hr hn hs h
  obtain ⟨hrst, hwait, hdone⟩ := decode_selS_eq_smpLatch.mp hop
  rw [raw_sample_of_run_of_silent ht hrx hsx, smp_of_step_of_latch hx hrst hwait hdone]

/-- The mode that an SMP_ISSUE leaves stays up to the completion of its conversion. -/
theorem mode_of_run_after_issue {v : State} (hop : decode (selS s) = .ok (.smpIssue s.input.adc_done))
    (hv : step s = .next v) : t.smp.mode = v.smp.mode := by
  obtain ⟨x, m, hx, ht, hrx, hsx⟩ := exists_step_and_silent_run hr hn hs h
  obtain rfl : x = v := Host.Outcome.next.inj (hx.symm.trans hv)
  obtain ⟨hrst, hissue⟩ := decode_selS_eq_smpIssue.mp hop
  obtain ⟨m', -, hsmp⟩ := smp_of_step_of_issue hx hrst hissue
  rw [smp_of_run_of_silent ht (by rw [hsmp]) hrx hsx]

end Unanswered

/-- The cycle after a fire drives the line exactly for a positive width. -/
theorem State.Fires.pwm_out_of_step {s t : State} (hf : s.Fires) (h : step s = .next t) (hr : t.input.rst = false) :
    t.output.pwm_out = true ↔ 0 < t.pg.pulse_width := by
  obtain ⟨hrst, hlast⟩ := fires_iff.mp hf
  rw [pwm_out_eq_true, ((pulseRegistersRule s t h hrst).1 hlast).2]
  exact and_iff_left hr

/-- Settles O56: the next fire reads what this cycle wrote, since a silent ADC changes neither the sample nor, in WAIT,
the mode; the line follows in the fire's next cycle. -/
theorem changeReachesTheLine : Obligations.ChangeReachesTheLine := by
  intro s hi hr
  obtain ⟨d, t, hd, hdp, ht, hf, hfirst⟩ := exists_next_fire hi (hr.mono (Nat.le_succ _))
  obtain ⟨u, hu⟩ := exists_step_of_inv (hi.run ht)
  have hrunu : run (d + 1) s = .next u := run_succ_last.mpr ⟨t, ht, hu⟩
  have hru : u.input.rst = false := input_of_run hrunu ▸ hr (d + 1) (by omega)
  have hrd : s.NoReset d := hr.mono (by omega)
  refine ⟨d, t, u, hd, hdp, ht, hf, hfirst, fun hop hs => raw_sample_of_run_after_latch hrd hd hs ht hop,
    fun v hop hv hs => ?_, hrunu, cfg_of_run ht ▸ hf.width_of_step hu, hf.pwm_out_of_step hu hru⟩
  obtain ⟨x, hx, hxv⟩ := run_succ_eq_next.mp hv
  exact mode_of_run_after_issue hrd hd hs ht hop (hx.trans hxv)

/-! A live ADC (R204). -/

/-- Of the cycles in which a live ADC reports a completion, the first answers the conversion. -/
theorem State.AdcLive.exists_answer {s : State} {n : Nat} (h : s.AdcLive n) :
    ∃ k, k ≤ n ∧ s.AdcAnswers k (s.inputAt k).adc_result := by
  have hex : ∃ k, 1 ≤ k ∧ k ≤ n ∧ (s.inputAt k).adc_done = true := h
  obtain ⟨hk, hkn, hdone⟩ := Nat.find_spec hex
  refine ⟨Nat.find hex, hkn, hk, fun j hj hjk => ?_, hdone, rfl⟩
  exact Bool.eq_false_of_not_eq_true fun hj' => Nat.find_min hex hjk ⟨hj, hjk.le.trans hkn, hj'⟩

/-- Settles O57: the first report answers the conversion, and the iteration that it ends is R106's. -/
theorem liveAdcCompletesTheConversion : Obligations.LiveAdcCompletesTheConversion := by
  intro s n hi hp hr hlive
  obtain ⟨k, hkn, ha⟩ := hlive.exists_answer
  have ⟨hk, hsilent, hdone, _⟩ := ha
  obtain ⟨-, -, ⟨t, ht, hlatch, -⟩, ⟨u, hu, hissue, hraw, -⟩, -⟩ :=
    iterationTiming s k _ hi hp (hr.mono (Nat.succ_le_succ hkn)) ha
  obtain ⟨t', ht', hstep⟩ := run_succ_last.mp hu
  obtain rfl : t = t' := Host.Outcome.next.inj (ht.symm.trans ht')
  exact ⟨k, t, hk, hkn, hdone, hsilent, ht, hlatch, u, hstep, hraw, hissue⟩

end Sys2Proof.Machine
end
